-- ==== Sys2Proof/Word.lean ====
section
/-! DEFINITION. The bit-vector types the spec's values have (spec/00_scope.md R5, R7). Arithmetic on
them wraps modulo 2^width, as R7 asks; slices are `BitVec.extractLsb'`, concatenation is `++`. -/

namespace Sys2Proof

/-- One byte of the reference memory (R45). -/
abbrev Byte := BitVec 8

/-- A 32-bit value: an instruction word, a W or S view, a binary32 pattern. -/
abbrev Word32 := BitVec 32

/-- A 64-bit value: a register, an operand, a result, an address (R5). -/
abbrev Word := BitVec 64

end Sys2Proof
end

