-- ==== Sys2Proof/Syntax.lean ====
section
/-! DEFINITION. The instructions of spec/30_encoding.md R66, one constructor per row of the opcode
table. A register field keeps its 5-bit index, because what index 31 means is fixed per instruction
and per field (R14, R68) and index 0 of RET is special (R164). -/

namespace Sys2Proof

/-- A register index field `Rd`, `Rt`, `Rn` or `Rm`: an unsigned index 0 to 31 (R64). -/
abbrev RegIdx := BitVec 5

/-- The `shift` field of format DPR (R69). `reserved` is code 11, which fails decode. -/
inductive ShiftType where
  | lsl
  | lsr
  | asr
  | reserved
  deriving DecidableEq, Repr

/-- The `cond` field of format BC (R72). -/
inductive Cond where
  | eq | ne | cs | cc | mi | pl | vs | vc | hi | ls | ge | lt | gt | le | al | nv
  deriving DecidableEq, Repr

/-- The thirteen instructions (R66). Field names are those of R64. -/
inductive Instr where
  /-- SUB (immediate, 64-bit, sh=0), R121. -/
  | subImm (rd rn : RegIdx) (imm12 : BitVec 12)
  /-- CMP (immediate, 64-bit, sh=0), R122. -/
  | cmpImm (rn : RegIdx) (imm12 : BitVec 12)
  /-- ADD (shifted register, 64-bit), R132. -/
  | addShifted (rd rn rm : RegIdx) (shift : ShiftType) (imm6 : BitVec 6)
  /-- SUB (shifted register, 64-bit), R133. -/
  | subShifted (rd rn rm : RegIdx) (shift : ShiftType) (imm6 : BitVec 6)
  /-- FADD (scalar, single precision), R144. -/
  | fadd (rd rn rm : RegIdx)
  /-- FSUB (scalar, single precision), R145. -/
  | fsub (rd rn rm : RegIdx)
  /-- LDR (unsigned offset, 32-bit), R152. -/
  | ldr32 (rt rn : RegIdx) (imm12 : BitVec 12)
  /-- LDR (unsigned offset, 64-bit), R153. -/
  | ldr64 (rt rn : RegIdx) (imm12 : BitVec 12)
  /-- STR (unsigned offset, 32-bit), R154. -/
  | str32 (rt rn : RegIdx) (imm12 : BitVec 12)
  /-- STR (unsigned offset, 64-bit), R155. -/
  | str64 (rt rn : RegIdx) (imm12 : BitVec 12)
  /-- B, R161. -/
  | b (imm26 : BitVec 26)
  /-- B.cond, R163. -/
  | bCond (cond : Cond) (imm19 : BitVec 19)
  /-- RET, R164. -/
  | ret (rn : RegIdx)
  deriving DecidableEq, Repr

end Sys2Proof
end

