-- ==== Sys2Proof/WellFormed.lean ====
section
/-! DEFINITION. Which terms of `Instr` are instructions of the machine. Register indices and
immediates cannot be out of range by their types; two fields have values that fail decode. -/

namespace Sys2Proof

/-- The shift codes that decode (R69): all but 11. -/
def ShiftType.supported : ShiftType → Bool
  | .lsl => true
  | .lsr => true
  | .asr => true
  | .reserved => false

/-- The conditions that decode (R72): all but the four that need a carry flag. -/
def Cond.supported : Cond → Bool
  | .eq => true
  | .ne => true
  | .cs => false
  | .cc => false
  | .mi => true
  | .pl => true
  | .vs => true
  | .vc => true
  | .hi => false
  | .ls => false
  | .ge => true
  | .lt => true
  | .gt => true
  | .le => true
  | .al => true
  | .nv => true

/-- The instruction has an encoding that decodes: no excluded sub-pattern of R66. -/
def Instr.wellFormed : Instr → Bool
  | .subImm _ _ _ => true
  | .cmpImm _ _ => true
  | .addShifted _ _ _ shift _ => shift.supported
  | .subShifted _ _ _ shift _ => shift.supported
  | .fadd _ _ _ => true
  | .fsub _ _ _ => true
  | .ldr32 _ _ _ => true
  | .ldr64 _ _ _ => true
  | .str32 _ _ _ => true
  | .str64 _ _ _ => true
  | .b _ => true
  | .bCond cond _ => cond.supported
  | .ret _ => true

end Sys2Proof
end

