-- ==== Sys2Proof/Decode.lean ====
section
/-! DEFINITION. The decoder (spec/30_encoding.md R61 to R72): the group by bits 28 to 25, then the
opcode rows of the group, then the fields; and, from the same formats (R63), the encoder. A rejected
word carries the name of the reason; every one of them is UnimplementedInstruction (R70). -/

namespace Sys2Proof

/-! ## Fields (R64) -/

def fieldRd (w : Word32) : RegIdx := w.extractLsb' 0 5
def fieldRt (w : Word32) : RegIdx := w.extractLsb' 0 5
def fieldRn (w : Word32) : RegIdx := w.extractLsb' 5 5
def fieldRm (w : Word32) : RegIdx := w.extractLsb' 16 5
def fieldImm12 (w : Word32) : BitVec 12 := w.extractLsb' 10 12
def fieldImm6 (w : Word32) : BitVec 6 := w.extractLsb' 10 6
def fieldImm26 (w : Word32) : BitVec 26 := w.extractLsb' 0 26
def fieldImm19 (w : Word32) : BitVec 19 := w.extractLsb' 5 19
def fieldShift (w : Word32) : BitVec 2 := w.extractLsb' 22 2
def fieldCond (w : Word32) : BitVec 4 := w.extractLsb' 0 4
def fieldGroup (w : Word32) : BitVec 4 := w.extractLsb' 25 4

/-- The shift type a code of the `shift` field names (R69). -/
def ShiftType.ofCode (c : BitVec 2) : ShiftType :=
  match c.toNat with
  | 0 => .lsl
  | 1 => .lsr
  | 2 => .asr
  | _ => .reserved

/-- The code of a shift type in the `shift` field (R69). -/
def ShiftType.code : ShiftType → BitVec 2
  | .lsl => 0b00#2
  | .lsr => 0b01#2
  | .asr => 0b10#2
  | .reserved => 0b11#2

/-- The condition a code of the `cond` field names (R72). -/
def Cond.ofCode (c : BitVec 4) : Cond :=
  match c.toNat with
  | 0 => .eq
  | 1 => .ne
  | 2 => .cs
  | 3 => .cc
  | 4 => .mi
  | 5 => .pl
  | 6 => .vs
  | 7 => .vc
  | 8 => .hi
  | 9 => .ls
  | 10 => .ge
  | 11 => .lt
  | 12 => .gt
  | 13 => .le
  | 14 => .al
  | _ => .nv

/-- The code of a condition in the `cond` field (R72). -/
def Cond.code : Cond → BitVec 4
  | .eq => 0b0000#4
  | .ne => 0b0001#4
  | .cs => 0b0010#4
  | .cc => 0b0011#4
  | .mi => 0b0100#4
  | .pl => 0b0101#4
  | .vs => 0b0110#4
  | .vc => 0b0111#4
  | .hi => 0b1000#4
  | .ls => 0b1001#4
  | .ge => 0b1010#4
  | .lt => 0b1011#4
  | .gt => 0b1100#4
  | .le => 0b1101#4
  | .al => 0b1110#4
  | .nv => 0b1111#4

/-! ## Groups (R61) -/

/-- The five top-level groups. -/
inductive Group where
  | dpImmediate
  | dpRegister
  | scalarFp
  | loadStore
  | branch
  deriving DecidableEq, Repr

/-- The group of a word, a function of `IR[28:25]` alone (R61). -/
def groupOf (w : Word32) : Option Group :=
  match (fieldGroup w).toNat with
  | 0 => none
  | 1 => none
  | 2 => none
  | 3 => none
  | 4 => some .loadStore
  | 5 => some .dpRegister
  | 6 => some .loadStore
  | 7 => some .scalarFp
  | 8 => some .dpImmediate
  | 9 => some .dpImmediate
  | 10 => some .branch
  | 11 => some .branch
  | 12 => some .loadStore
  | 13 => some .dpRegister
  | 14 => some .loadStore
  | _ => some .scalarFp

/-! ## Opcode rows (R62, R66) -/

/-- A decode rule: a mask, the value under it, and excluded (mask, value) sub-patterns (R62). -/
structure OpcodeRow where
  mask : Word32
  value : Word32
  excluded : List (Word32 × Word32)
  deriving DecidableEq, Repr

/-- The word agrees with the row's fixed bits. -/
def OpcodeRow.fixedBitsMatch (r : OpcodeRow) (w : Word32) : Bool := w &&& r.mask == r.value

/-- The word matches the row: fixed bits agree and no excluded pair does (R62). -/
def OpcodeRow.accepts (r : OpcodeRow) (w : Word32) : Bool :=
  r.fixedBitsMatch w && r.excluded.all fun e => !(w &&& e.1 == e.2)

def rowSubImm : OpcodeRow := ⟨0xFFC00000#32, 0xD1000000#32, []⟩
def rowCmpImm : OpcodeRow := ⟨0xFFC0001F#32, 0xF100001F#32, []⟩
def rowAddShifted : OpcodeRow := ⟨0xFF200000#32, 0x8B000000#32, [(0x00C00000#32, 0x00C00000#32)]⟩
def rowSubShifted : OpcodeRow := ⟨0xFF200000#32, 0xCB000000#32, [(0x00C00000#32, 0x00C00000#32)]⟩
def rowFadd : OpcodeRow := ⟨0xFFE0FC00#32, 0x1E202800#32, []⟩
def rowFsub : OpcodeRow := ⟨0xFFE0FC00#32, 0x1E203800#32, []⟩
def rowLdr32 : OpcodeRow := ⟨0xFFC00000#32, 0xB9400000#32, []⟩
def rowLdr64 : OpcodeRow := ⟨0xFFC00000#32, 0xF9400000#32, []⟩
def rowStr32 : OpcodeRow := ⟨0xFFC00000#32, 0xB9000000#32, []⟩
def rowStr64 : OpcodeRow := ⟨0xFFC00000#32, 0xF9000000#32, []⟩
def rowB : OpcodeRow := ⟨0xFC000000#32, 0x14000000#32, []⟩
def rowBCond : OpcodeRow := ⟨0xFF000010#32, 0x54000000#32,
  [(0x0000000F#32, 0x2#32), (0x0000000F#32, 0x3#32), (0x0000000F#32, 0x8#32), (0x0000000F#32, 0x9#32)]⟩
def rowRet : OpcodeRow := ⟨0xFFFFFC1F#32, 0xD65F0000#32, []⟩

/-- The thirteen rows in the order of R66. -/
def opcodeRows : List OpcodeRow :=
  [rowSubImm, rowCmpImm, rowAddShifted, rowSubShifted, rowFadd, rowFsub, rowLdr32, rowLdr64, rowStr32,
    rowStr64, rowB, rowBCond, rowRet]

/-- The row of an instruction. -/
def Instr.row : Instr → OpcodeRow
  | .subImm _ _ _ => rowSubImm
  | .cmpImm _ _ => rowCmpImm
  | .addShifted _ _ _ _ _ => rowAddShifted
  | .subShifted _ _ _ _ _ => rowSubShifted
  | .fadd _ _ _ => rowFadd
  | .fsub _ _ _ => rowFsub
  | .ldr32 _ _ _ => rowLdr32
  | .ldr64 _ _ _ => rowLdr64
  | .str32 _ _ _ => rowStr32
  | .str64 _ _ _ => rowStr64
  | .b _ => rowB
  | .bCond _ _ => rowBCond
  | .ret _ => rowRet

/-! ## The two-level decoder -/

/-- Why a word fails decode. Each is UnimplementedInstruction (R70); the names are the model's. -/
inductive DecodeError where
  /-- Fewer than four bytes were given (the model's own; a fetch always gives a whole word). -/
  | tooShort
  /-- `IR[28:25]` selects no group (R61). -/
  | noGroup
  /-- The word is in a group and matches no row of it (R120, R130, R140, R150, R160). -/
  | unmatched (g : Group)
  /-- SUB or CMP (immediate) with the shift bit set (R121, R122). -/
  | shiftedImmediate
  /-- ADD or SUB (shifted register) with shift code 11 (R69). -/
  | reservedShift
  /-- B.cond on a condition that needs a carry flag (R162). -/
  | carryCondition (c : Cond)
  deriving DecidableEq, Repr

/-- Data-processing (immediate), R120. -/
def decodeDpImmediate (w : Word32) : Except DecodeError Instr :=
  if rowSubImm.accepts w then .ok (.subImm (fieldRd w) (fieldRn w) (fieldImm12 w))
  else if rowCmpImm.accepts w then .ok (.cmpImm (fieldRn w) (fieldImm12 w))
  else if w &&& 0xFFC00000#32 == 0xD1400000#32 then .error .shiftedImmediate
  else if w &&& 0xFFC0001F#32 == 0xF140001F#32 then .error .shiftedImmediate
  else .error (.unmatched .dpImmediate)

/-- Data-processing (register), R130. -/
def decodeDpRegister (w : Word32) : Except DecodeError Instr :=
  if rowAddShifted.accepts w then
    .ok (.addShifted (fieldRd w) (fieldRn w) (fieldRm w) (ShiftType.ofCode (fieldShift w)) (fieldImm6 w))
  else if rowSubShifted.accepts w then
    .ok (.subShifted (fieldRd w) (fieldRn w) (fieldRm w) (ShiftType.ofCode (fieldShift w)) (fieldImm6 w))
  else if rowAddShifted.fixedBitsMatch w || rowSubShifted.fixedBitsMatch w then .error .reservedShift
  else .error (.unmatched .dpRegister)

/-- Scalar floating point and SIMD, R140. -/
def decodeScalarFp (w : Word32) : Except DecodeError Instr :=
  if rowFadd.accepts w then .ok (.fadd (fieldRd w) (fieldRn w) (fieldRm w))
  else if rowFsub.accepts w then .ok (.fsub (fieldRd w) (fieldRn w) (fieldRm w))
  else .error (.unmatched .scalarFp)

/-- Load/store, R150. -/
def decodeLoadStore (w : Word32) : Except DecodeError Instr :=
  if rowLdr32.accepts w then .ok (.ldr32 (fieldRt w) (fieldRn w) (fieldImm12 w))
  else if rowLdr64.accepts w then .ok (.ldr64 (fieldRt w) (fieldRn w) (fieldImm12 w))
  else if rowStr32.accepts w then .ok (.str32 (fieldRt w) (fieldRn w) (fieldImm12 w))
  else if rowStr64.accepts w then .ok (.str64 (fieldRt w) (fieldRn w) (fieldImm12 w))
  else .error (.unmatched .loadStore)

/-- Branch, exception-generating and system, R160. -/
def decodeBranch (w : Word32) : Except DecodeError Instr :=
  if rowB.accepts w then .ok (.b (fieldImm26 w))
  else if rowBCond.accepts w then .ok (.bCond (Cond.ofCode (fieldCond w)) (fieldImm19 w))
  else if rowRet.accepts w then .ok (.ret (fieldRn w))
  else if rowBCond.fixedBitsMatch w then .error (.carryCondition (Cond.ofCode (fieldCond w)))
  else .error (.unmatched .branch)

/-- The decoder on an instruction word: total, rejecting by name (R61, R66, R70). -/
def decode (w : Word32) : Except DecodeError Instr :=
  match groupOf w with
  | none => .error .noGroup
  | some .dpImmediate => decodeDpImmediate w
  | some .dpRegister => decodeDpRegister w
  | some .scalarFp => decodeScalarFp w
  | some .loadStore => decodeLoadStore w
  | some .branch => decodeBranch w

/-! ## Bytes (R44, R45) -/

/-- The 32-bit number four bytes make in the reference memory, the first at the lowest address (R45). -/
def wordOfBytes (b0 b1 b2 b3 : Byte) : Word32 := b3 ++ b2 ++ b1 ++ b0

/-- The bytes of a 32-bit value as the reference memory stores them, lowest address first (R45). -/
def bytesOfWord32 (v : Word32) : List Byte :=
  [v.extractLsb' 0 8, v.extractLsb' 8 8, v.extractLsb' 16 8, v.extractLsb' 24 8]

/-- The decoder on bytes: the instruction of the first four bytes (R60). -/
def decodeBytes : List Byte → Except DecodeError Instr
  | b0 :: b1 :: b2 :: b3 :: _ => decode (wordOfBytes b0 b1 b2 b3)
  | _ => .error .tooShort

/-- The instruction word whose low `nbits` bits are those of `w`, the bits above being zero. -/
def tableWord (nbits w : Nat) : Word32 := BitVec.ofNat 32 (w % 2 ^ nbits)

/-- The instruction the decoder reads from an opcode-table word laid out as the memory stores it. -/
def decodeTableWord (nbits w : Nat) : Option Instr :=
  match decodeBytes (bytesOfWord32 (tableWord nbits w)) with
  | .ok i => some i
  | .error _ => none

/-! ## The encoder (R63, R66) -/

/-- Format DPI. -/
def formatDPI (sf op s sh : BitVec 1) (imm12 : BitVec 12) (rn rd : RegIdx) : Word32 :=
  sf ++ op ++ s ++ 0b100010#6 ++ sh ++ imm12 ++ rn ++ rd

/-- Format DPR. -/
def formatDPR (sf op s : BitVec 1) (shift : BitVec 2) (rm : RegIdx) (imm6 : BitVec 6) (rn rd : RegIdx) :
    Word32 :=
  sf ++ op ++ s ++ 0b01011#5 ++ shift ++ 0b0#1 ++ rm ++ imm6 ++ rn ++ rd

/-- Format FP2. -/
def formatFP2 (ftype : BitVec 2) (rm : RegIdx) (opcode : BitVec 4) (rn rd : RegIdx) : Word32 :=
  0b0#1 ++ 0b0#1 ++ 0b0#1 ++ 0b11110#5 ++ ftype ++ 0b1#1 ++ rm ++ opcode ++ 0b10#2 ++ rn ++ rd

/-- Format LSU. -/
def formatLSU (size opc : BitVec 2) (imm12 : BitVec 12) (rn rt : RegIdx) : Word32 :=
  size ++ 0b111#3 ++ 0b0#1 ++ 0b01#2 ++ opc ++ imm12 ++ rn ++ rt

/-- Format BI. -/
def formatBI (op : BitVec 1) (imm26 : BitVec 26) : Word32 := op ++ 0b00101#5 ++ imm26

/-- Format BC. -/
def formatBC (o1 : BitVec 1) (imm19 : BitVec 19) (o0 : BitVec 1) (cond : BitVec 4) : Word32 :=
  0b0101010#7 ++ o1 ++ imm19 ++ o0 ++ cond

/-- Format BR. -/
def formatBR (opc : BitVec 4) (op2 : BitVec 5) (op3 : BitVec 6) (rn : RegIdx) (op4 : BitVec 5) : Word32 :=
  0b1101011#7 ++ opc ++ op2 ++ op3 ++ rn ++ op4

/-- The word of an instruction: its format with the row's fixed fields (R63, R66). -/
def encode : Instr → Word32
  | .subImm rd rn imm12 => formatDPI 1#1 1#1 0#1 0#1 imm12 rn rd
  | .cmpImm rn imm12 => formatDPI 1#1 1#1 1#1 0#1 imm12 rn 0b11111#5
  | .addShifted rd rn rm shift imm6 => formatDPR 1#1 0#1 0#1 shift.code rm imm6 rn rd
  | .subShifted rd rn rm shift imm6 => formatDPR 1#1 1#1 0#1 shift.code rm imm6 rn rd
  | .fadd rd rn rm => formatFP2 0b00#2 rm 0b0010#4 rn rd
  | .fsub rd rn rm => formatFP2 0b00#2 rm 0b0011#4 rn rd
  | .ldr32 rt rn imm12 => formatLSU 0b10#2 0b01#2 imm12 rn rt
  | .ldr64 rt rn imm12 => formatLSU 0b11#2 0b01#2 imm12 rn rt
  | .str32 rt rn imm12 => formatLSU 0b10#2 0b00#2 imm12 rn rt
  | .str64 rt rn imm12 => formatLSU 0b11#2 0b00#2 imm12 rn rt
  | .b imm26 => formatBI 0#1 imm26
  | .bCond cond imm19 => formatBC 0#1 imm19 0#1 cond.code
  | .ret rn => formatBR 0b0010#4 0b11111#5 0b000000#6 rn 0b00000#5

end Sys2Proof
end

