-- ==== Sys2Proof/Config.lean ====
section
/-! DEFINITION. The values the spec leaves open and of which nothing may be assumed: opaque constants
without a body. The other open parameters of spec/00_scope.md R6 are data of the state (State.lean). -/

namespace Sys2Proof

/-- Which of the two float operations asks for a NaN (the `op` of R143). -/
inductive FpOp where
  | add
  | sub
  deriving DecidableEq, Repr

/-- A binary32 NaN: a sign and a fraction that is not zero (R143). `fractionLessOne` is the fraction
minus 1, so every NaN pattern is some `NaN32` and every `NaN32` is a NaN pattern. -/
structure NaN32 where
  negative : Bool
  fractionLessOne : Fin 8388607
  deriving DecidableEq, Repr, Inhabited

/-- The open parameter `fp32_nan(op, a, b)` of R143: which NaN an operation gives. Free (log 8). -/
opaque Config.fp32Nan : FpOp → Word32 → Word32 → NaN32

/-- What `MDR` holds in a tick that loads nothing: "MDR keeps no meaning" (R99). Free (log 12); no
instruction of the decoder commits it. -/
opaque Config.mdrWithoutLoad : Word

end Sys2Proof
end

