-- ==== Sys2Proof/Machine/State.lean ====
section
/-! DEFINITION. The state of the core as plain data (spec/10_state.md R10), the reasons a step can
stop, and the state right after reset (R31). What only lives inside a tick (`IR`, the latches,
`ALUOutput`, `MDR`) is no field, as R26 asks (log 10). -/

namespace Sys2Proof.Machine

open Sys2Proof

/-- The sticky error state (R27). -/
inductive CpuError where
  | none
  | unimplemented
  deriving DecidableEq, Repr

/-- The cause register (R27), codes 0 to 4 of R172. -/
inductive ErrorCause where
  | none
  | unimplementedInstruction
  | unimplementedALUControl
  | unimplementedMemoryControl
  | unimplementedWriteBackControl
  deriving DecidableEq, Repr

/-- The driver's run state (R28). -/
inductive RunState where
  | running
  | haltedOk
  | haltedError
  deriving DecidableEq, Repr

/-- The five kinds of request the core makes of the memory collaborator (R40). -/
inductive RequestKind where
  | fetch32
  | read32
  | read64
  | write32
  | write64
  deriving DecidableEq, Repr

/-- Addresses at which the memory collaborator does not accept requests of one kind: from `first` to
`last`, both included. A list of these stands for the open predicate `mem_admit` of R47 (log 6). -/
structure RefusedRange where
  kind : RequestKind
  first : Word
  last : Word
  deriving DecidableEq, Repr

/-- The bytes of the reference memory (R45): (address, byte) pairs, addresses rising, no entry equal
to what an unlisted address reads as. -/
abbrev Memory := List Host.Cell

/-- The state of the machine between ticks. -/
structure State where
  /-- X[0] to X[30] (R11). -/
  x : Vector Word 31
  /-- SP (R13). -/
  sp : Word
  /-- PC (R15). -/
  pc : Word
  /-- V[0] to V[31] (R18). -/
  v : Vector Word 32
  /-- The flag N (R19). -/
  n : Bool
  /-- The flag Z (R19). -/
  z : Bool
  /-- The flag Vf, overflow (R19). -/
  vf : Bool
  /-- The sticky error (R27). -/
  cpuError : CpuError
  /-- The cause register (R27). -/
  errorCause : ErrorCause
  /-- The driver's run state (R28). -/
  runState : RunState
  /-- The memory collaborator's bytes (R45). -/
  mem : Memory
  /-- The requests the memory collaborator refuses (R47), the model's own field (log 6). -/
  memRefused : List RefusedRange
  /-- The samples of `finished` still to come (R112), the model's own field (log 7). -/
  finishedInput : List Bool
  deriving DecidableEq, Repr

/-- Why a step has no next state. -/
inductive Fault where
  /-- Raised by the five memory primitives: the collaborator does not accept the request, and the
  agent is stuck (R47). Safe: the model stops where the spec gives no behaviour. -/
  | memoryRequestNotAdmitted (kind : RequestKind) (addr : Word)
  /-- Raised by the driver in HALTED_OK, which has no outgoing transition (R110). Safe (log 9). -/
  | haltedOk
  /-- Raised by the driver in HALTED_ERROR, which has no outgoing transition (R110). Safe (log 9). -/
  | haltedError
  deriving DecidableEq, Repr

/-- Why the model gives an instruction no meaning. -/
inductive Refusal where
  /-- Raised by an arm of `exec` whose instruction has no meaning yet; no arm does. Safe. -/
  | notModelled (mnemonic : String)
  deriving DecidableEq, Repr

/-- What the spec leaves open about the state at the first tick (R6, R190 to R192, R194). -/
structure ResetParams where
  startAddress : Word
  x : Vector Word 31
  sp : Word
  v : Vector Word 32
  n : Bool
  z : Bool
  vf : Bool
  mem : Memory
  memRefused : List RefusedRange
  finishedInput : List Bool
  deriving DecidableEq, Repr

/-- The state at the first tick for given open parameters (R31, R190 to R194). -/
def State.resetWith (p : ResetParams) : State where
  x := p.x
  sp := p.sp
  pc := p.startAddress
  v := p.v
  n := p.n
  z := p.z
  vf := p.vf
  cpuError := .none
  errorCause := .none
  runState := .running
  mem := p.mem
  memRefused := p.memRefused
  finishedInput := p.finishedInput

/-- The values the model names where the spec gives none (DESIGN CHOICE, unsafe: logs 1, 2, 3, 5, 6, 7). -/
def ResetParams.chosen : ResetParams where
  startAddress := 0#64
  x := Vector.replicate 31 0#64
  sp := 0#64
  v := Vector.replicate 32 0#64
  n := false
  z := false
  vf := false
  mem := []
  memRefused := []
  finishedInput := []

/-- The machine right after reset (R31). -/
def State.reset : State := State.resetWith ResetParams.chosen

end Sys2Proof.Machine
end

