-- ==== Sys2Proof/Machine/Ops.lean ====
section
/-! DEFINITION. The named operations over registers, memory and the error state: the writes of the
register file, the reference memory and its five primitives (spec/20_memory.md R40 to R49), and the
failure mechanism `raise` (spec/60_exceptions.md R171). There is no trap entry and no return from one
(R176): a failure saves nothing and goes nowhere. -/

namespace Sys2Proof.Machine

open Sys2Proof

/-! ## Updates of one field -/

/-- `X[i] <- v` (R8, R11). -/
def State.setX (s : State) (i : Fin 31) (v : Word) : State := { s with x := s.x.set i v }

/-- `SP <- v` (R8, R13). -/
def State.setSp (s : State) (v : Word) : State := { s with sp := v }

/-- `PC <- v` (R8, R15). -/
def State.setPc (s : State) (v : Word) : State := { s with pc := v }

/-- `V[i] <- v` (R8, R18). -/
def State.setV (s : State) (i : Fin 32) (v : Word) : State := { s with v := s.v.set i v }

/-- The three flags, written together (R20). -/
def State.setFlags (s : State) (n z vf : Bool) : State := { s with n := n, z := z, vf := vf }

/-- The memory collaborator's bytes. -/
def State.setMem (s : State) (m : Memory) : State := { s with mem := m }

/-- The driver's run state (R28). -/
def State.setRunState (s : State) (r : RunState) : State := { s with runState := r }

/-- The samples of `finished` still to come (R112, log 7). -/
def State.setFinishedInput (s : State) (l : List Bool) : State := { s with finishedInput := l }

/-! ## Failures (R171, R172) -/

/-- The four causes of failure (R172). -/
inductive Cause where
  | unimplementedInstruction
  | unimplementedALUControl
  | unimplementedMemoryControl
  | unimplementedWriteBackControl
  deriving DecidableEq, Repr

/-- What the cause register holds after a failure (R172). -/
def Cause.recorded : Cause → ErrorCause
  | .unimplementedInstruction => .unimplementedInstruction
  | .unimplementedALUControl => .unimplementedALUControl
  | .unimplementedMemoryControl => .unimplementedMemoryControl
  | .unimplementedWriteBackControl => .unimplementedWriteBackControl

/-- The code number of a cause (R172). -/
def ErrorCause.code : ErrorCause → Nat
  | .none => 0
  | .unimplementedInstruction => 1
  | .unimplementedALUControl => 2
  | .unimplementedMemoryControl => 3
  | .unimplementedWriteBackControl => 4

/-- `raise Cause`: the sticky error, its cause and the run state; nothing else changes, the PC
included (R171; the run state in the same step: log 18). -/
def State.raise (s : State) (c : Cause) : State :=
  { s with cpuError := .unimplemented, errorCause := c.recorded, runState := .haltedError }

/-! ## The reference memory (R45) -/

/-- What an address that is not listed reads as (DESIGN CHOICE, unsafe: log 5). -/
def Memory.unlisted : Byte := 0#8

/-- The byte at an address. -/
def Memory.readByte : Memory → Nat → Byte
  | [], _ => Memory.unlisted
  | c :: m, a => if c.1 = a then c.2 else Memory.readByte m a

/-- A listing with one cell in front, left out if it reads as unlisted. -/
def Memory.cons (a : Nat) (b : Byte) (m : Memory) : Memory :=
  if b = Memory.unlisted then m else (a, b) :: m

/-- The listing after one byte is written; the canonical form is kept. -/
def Memory.writeByte : Memory → Nat → Byte → Memory
  | [], a, b => Memory.cons a b []
  | c :: m, a, b =>
    if c.1 < a then c :: Memory.writeByte m a b
    else if c.1 = a then Memory.cons a b m
    else Memory.cons a b (c :: m)

/-- Bytes written at an address and on; byte addresses wrap modulo 2^64 (R45). -/
def Memory.writeBytes (m : Memory) (a : Word) : List Byte → Memory
  | [] => m
  | b :: bs => Memory.writeBytes (m.writeByte a.toNat b) (a + 1#64) bs

/-- `B[a+k]`, the address modulo 2^64 (R45). -/
def Memory.byteAt (m : Memory) (a : Word) (k : Nat) : Byte := m.readByte (a + BitVec.ofNat 64 k).toNat

/-- Four bytes as a value, the lowest address least significant (R45). -/
def Memory.read32 (m : Memory) (a : Word) : Word32 :=
  wordOfBytes (m.byteAt a 0) (m.byteAt a 1) (m.byteAt a 2) (m.byteAt a 3)

/-- Eight bytes as a value, the lowest address least significant (R45). -/
def Memory.read64 (m : Memory) (a : Word) : Word :=
  m.byteAt a 7 ++ m.byteAt a 6 ++ m.byteAt a 5 ++ m.byteAt a 4 ++
    m.byteAt a 3 ++ m.byteAt a 2 ++ m.byteAt a 1 ++ m.byteAt a 0

/-- The bytes of a 64-bit value, lowest address first (R45). -/
def bytesOfWord (v : Word) : List Byte :=
  [v.extractLsb' 0 8, v.extractLsb' 8 8, v.extractLsb' 16 8, v.extractLsb' 24 8,
    v.extractLsb' 32 8, v.extractLsb' 40 8, v.extractLsb' 48 8, v.extractLsb' 56 8]

/-- A 32-bit value stored (R45). -/
def Memory.write32 (m : Memory) (a : Word) (v : Word32) : Memory := m.writeBytes a (bytesOfWord32 v)

/-- A 64-bit value stored (R45). -/
def Memory.write64 (m : Memory) (a : Word) (v : Word) : Memory := m.writeBytes a (bytesOfWord v)

/-- The canonical form: addresses strictly rising and below 2^64, no entry equal to what an unlisted
address reads as. -/
def Memory.wf : Memory → Bool
  | [] => true
  | c :: m =>
    decide (c.1 < 2 ^ 64) && decide (c.2 ≠ Memory.unlisted) && m.all (fun d => decide (c.1 < d.1)) &&
      Memory.wf m

/-! ## The memory collaborator (R6, R40) -/

/-- The memory collaborator as a parameter (`Mem` of R6): what each of its five primitives answers and what
it leaves, on a content that is any list of cells. A read may have a side effect (R49), fetch and data
may live apart, and no byte order is assumed (R43). -/
structure Collaborator where
  readInstruction32 : Memory → Word → Word32 × Memory
  readData32 : Memory → Word → Word32 × Memory
  readData64 : Memory → Word → Word × Memory
  writeData32 : Memory → Word → Word32 → Memory
  writeData64 : Memory → Word → Word → Memory

/-- The reference memory of R45, the collaborator `step` is given (log 4). -/
def Collaborator.reference : Collaborator where
  readInstruction32 m a := (m.read32 a, m)
  readData32 m a := (m.read32 a, m)
  readData64 m a := (m.read64 a, m)
  writeData32 := Memory.write32
  writeData64 := Memory.write64

/-! ## The memory port (R40, R47, R48)

A primitive whose name ends in `With` is that of a given collaborator, and the same name without it that of
the reference memory. -/

/-- Whether the collaborator accepts a request: `mem_admit(kind, addr, width)`, the width being that
of the kind (R47, R48; log 6). -/
def State.memAdmit (s : State) (kind : RequestKind) (addr : Word) : Bool :=
  !(s.memRefused.any fun r => r.kind == kind && decide (r.first ≤ addr) && decide (addr ≤ r.last))

/-- A request on the port: the answer, or no behaviour where it is not accepted (R47). -/
def State.request {α : Type} (s : State) (kind : RequestKind) (addr : Word) (answer : α) :
    Except Fault α :=
  if s.memAdmit kind addr then .ok answer else .error (.memoryRequestNotAdmitted kind addr)

/-- The value a read answered, and the state with the content it left. -/
def State.answered {α : Type} (s : State) (r : α × Memory) : α × State := (r.1, s.setMem r.2)

/-- `readInstruction32(addr)` (R40). -/
def State.readInstruction32With (c : Collaborator) (s : State) (addr : Word) :
    Except Fault (Word32 × State) :=
  s.request .fetch32 addr (s.answered (c.readInstruction32 s.mem addr))

/-- `readData32(addr)` (R40). -/
def State.readData32With (c : Collaborator) (s : State) (addr : Word) : Except Fault (Word32 × State) :=
  s.request .read32 addr (s.answered (c.readData32 s.mem addr))

/-- `readData64(addr)` (R40). -/
def State.readData64With (c : Collaborator) (s : State) (addr : Word) : Except Fault (Word × State) :=
  s.request .read64 addr (s.answered (c.readData64 s.mem addr))

/-- `writeData32(addr, v)` (R40). -/
def State.writeData32With (c : Collaborator) (s : State) (addr : Word) (v : Word32) : Except Fault State :=
  s.request .write32 addr (s.setMem (c.writeData32 s.mem addr v))

/-- `writeData64(addr, v)` (R40). -/
def State.writeData64With (c : Collaborator) (s : State) (addr : Word) (v : Word) : Except Fault State :=
  s.request .write64 addr (s.setMem (c.writeData64 s.mem addr v))

/-- The value `readInstruction32(addr)` returns (R40). -/
def State.readInstruction32 (s : State) (addr : Word) : Except Fault Word32 :=
  (s.readInstruction32With .reference addr).map Prod.fst

/-- The value `readData32(addr)` returns (R40). -/
def State.readData32 (s : State) (addr : Word) : Except Fault Word32 :=
  (s.readData32With .reference addr).map Prod.fst

/-- The value `readData64(addr)` returns (R40). -/
def State.readData64 (s : State) (addr : Word) : Except Fault Word :=
  (s.readData64With .reference addr).map Prod.fst

/-- `writeData32(addr, v)` (R40). -/
def State.writeData32 (s : State) (addr : Word) (v : Word32) : Except Fault State :=
  s.writeData32With .reference addr v

/-- `writeData64(addr, v)` (R40). -/
def State.writeData64 (s : State) (addr : Word) (v : Word) : Except Fault State :=
  s.writeData64With .reference addr v

/-- The fetch stage: the word at the PC (R91); the core changes nothing. -/
def State.fetchWith (c : Collaborator) (s : State) : Except Fault (Word32 × State) :=
  s.readInstruction32With c s.pc

/-- The word at the PC in the reference memory. -/
def State.fetch (s : State) : Except Fault Word32 := s.readInstruction32 s.pc

/-- An instruction word put where the next fetch reads it, as a loader would (R195). -/
def State.storeAtPc (s : State) (w : Word32) : State := s.setMem (s.mem.write32 s.pc w)

end Sys2Proof.Machine
end

