-- ==== Sys2Proof/Machine/Flags.lean ====
section
/-! DEFINITION. The condition flags: what a subtraction writes (spec/40_pipeline_stages.md R97) and what
a condition reads (spec/45_branch.md R162). There is no carry flag (R19). -/

namespace Sys2Proof.Machine

open Sys2Proof

/-- N of a result: its bit 63 (R97). -/
def flagN (r : Word) : Bool := r.msb

/-- Z of a result (R97). -/
def flagZ (r : Word) : Bool := r == 0#64

/-- Vf of the subtraction `a - b` with result `r`: the operands differ in sign and so do the result
and the first operand (R97). -/
def flagVf (a b r : Word) : Bool := (a.msb != b.msb) && (r.msb != a.msb)

/-- The flag write of the execute stage under SUBS (R97). -/
def State.writeSubFlags (s : State) (a b : Word) : State :=
  s.setFlags (flagN (a - b)) (flagZ (a - b)) (flagVf a b (a - b))

/-- `CondHolds(cond)` on the held flags; a condition that needs a carry flag has no value: decode
fails (R162). -/
def State.condHolds (s : State) : Cond → Option Bool
  | .eq => some s.z
  | .ne => some (!s.z)
  | .cs => none
  | .cc => none
  | .mi => some s.n
  | .pl => some (!s.n)
  | .vs => some s.vf
  | .vc => some (!s.vf)
  | .hi => none
  | .ls => none
  | .ge => some (s.n == s.vf)
  | .lt => some (s.n != s.vf)
  | .gt => some (!s.z && s.n == s.vf)
  | .le => some (s.z || s.n != s.vf)
  | .al => some true
  | .nv => some true

end Sys2Proof.Machine
end

