-- ==== Sys2Proof/Machine/Float.lean ====
section
/-! DEFINITION. IEEE 754 binary32 addition and subtraction (spec/43_fp_scalar.md R141 to R143): round to
nearest, ties to even, gradual underflow, no flags. A finite magnitude is a natural number of units of
2^-149, the spacing of the subnormals, so that every sum is exact. -/

namespace Sys2Proof.Machine

open Sys2Proof

/-- What a 32-bit pattern denotes (R141); `units` counts 2^-149. -/
inductive Fp32Value where
  | nan
  | infinity (negative : Bool)
  | finite (negative : Bool) (units : Nat)
  deriving DecidableEq, Repr

/-- The sign bit, `p[31]`. -/
def fp32Negative (p : Word32) : Bool := p.msb

/-- The exponent field, `u(p[30:23])`. -/
def fp32Exponent (p : Word32) : Nat := (p.extractLsb' 23 8).toNat

/-- The fraction field, `u(p[22:0])`. -/
def fp32Fraction (p : Word32) : Nat := (p.extractLsb' 0 23).toNat

/-- A pattern read as binary32 (the table of R141). -/
def fp32Value (p : Word32) : Fp32Value :=
  if fp32Exponent p = 255 then
    if fp32Fraction p = 0 then .infinity (fp32Negative p) else .nan
  else if fp32Exponent p = 0 then .finite (fp32Negative p) (fp32Fraction p)
  else .finite (fp32Negative p) ((2 ^ 23 + fp32Fraction p) * 2 ^ (fp32Exponent p - 1))

/-- The pattern of a sign and the 31 bits below it. -/
def fp32Pattern (negative : Bool) (magnitude : Nat) : Word32 :=
  BitVec.ofBool negative ++ BitVec.ofNat 31 magnitude

/-- The 31-bit pattern of an infinity, the first above the finite ones. -/
def fp32InfinityBits : Nat := 0x7F800000

/-- The pattern of a NaN. -/
def fp32NanPattern (q : NaN32) : Word32 :=
  fp32Pattern q.negative (fp32InfinityBits + (q.fractionLessOne.val + 1))

/-- A quotient of `n` by `2 ^ k` rounded to nearest, ties to even. -/
def roundedShift (n k : Nat) : Nat :=
  let q := n / 2 ^ k
  let r := n % 2 ^ k
  if 2 * r > 2 ^ k ∨ (2 * r = 2 ^ k ∧ q % 2 = 1) then q + 1 else q

/-- The 31 bits of a magnitude of `units` times 2^-149 rounded to binary32 (step 6 of R142). Below
2^24 units the pattern is the number of units itself. Above, `k` bits are rounded away and the 24 bits
kept carry into the exponent by addition. -/
def roundMagnitude (units : Nat) : Nat :=
  if units < 2 ^ 24 then units
  else
    let k := units.log2 - 23
    let bits := k * 2 ^ 23 + roundedShift units k
    if bits < fp32InfinityBits then bits else fp32InfinityBits

/-- A finite value as a signed number of units. -/
def signedUnits (negative : Bool) (units : Nat) : Int :=
  if negative then -(units : Int) else (units : Int)

/-- The sum of two finite values (steps 5 and 6 of R142). -/
def addFinite (na : Bool) (ua : Nat) (nb : Bool) (ub : Nat) : Word32 :=
  let sum := signedUnits na ua + signedUnits nb ub
  if sum = 0 then
    if na && nb then 0x80000000#32 else 0x00000000#32
  else fp32Pattern (decide (sum < 0)) (roundMagnitude sum.natAbs)

/-- The addition of R142; `none` stands for "the result is a NaN". -/
def addNoNan (a b : Word32) : Option Word32 :=
  match fp32Value a, fp32Value b with
  | .nan, _ => none
  | _, .nan => none
  | .infinity na, .infinity nb => if na = nb then some a else none
  | .infinity _, .finite _ _ => some a
  | .finite _ _, .infinity _ => some b
  | .finite na ua, .finite nb ub => some (addFinite na ua nb ub)

/-- `fp32_add(a, b)` (R142), a NaN result being the open parameter of R143. -/
def fp32Add (a b : Word32) : Word32 :=
  match addNoNan a b with
  | some r => r
  | none => fp32NanPattern (Config.fp32Nan .add a b)

/-- `fp32_sub(a, b)`: the sum of `a` and `b` with its sign inverted; a NaN result is asked for with
the original `b` (step 1 of R142). -/
def fp32Sub (a b : Word32) : Word32 :=
  match addNoNan a (b ^^^ 0x80000000#32) with
  | some r => r
  | none => fp32NanPattern (Config.fp32Nan .sub a b)

end Sys2Proof.Machine
end

