-- ==== Sys2Proof/Machine/Operands.lean ====
section
/-! DEFINITION. Operand forms: the meaning of a register index per field (spec/10_state.md R14), the
destination tags (R22), immediates (spec/30_encoding.md R65) and the shifted register operand
(spec/42_dp_register.md R131). -/

namespace Sys2Proof.Machine

open Sys2Proof

/-! ## Source registers (R8, R14, R68) -/

/-- `XorSP(i)`: SP if i = 31, else X[i]. -/
def State.xOrSp (s : State) (i : RegIdx) : Word := if h : i.toNat < 31 then s.x[i.toNat] else s.sp

/-- `XorZR(i)`: 0 if i = 31, else X[i]. -/
def State.xOrZr (s : State) (i : RegIdx) : Word := if h : i.toNat < 31 then s.x[i.toNat] else 0#64

/-- `V[i]`: every index is an ordinary register (R18). -/
def State.vReg (s : State) (i : RegIdx) : Word := s.v[i.toNat]'(by have := i.isLt; omega)

/-- The target of RET: X[30] for field 0, 0 for field 31, else X[n] (R164). -/
def State.retTarget (s : State) (i : RegIdx) : Word := if i = 0#5 then s.xOrZr 30#5 else s.xOrZr i

/-- A binary32 operand: the low 32 bits of V[i] (R141). -/
def State.sReg (s : State) (i : RegIdx) : Word32 := (s.vReg i).extractLsb' 0 32

/-! ## Destination tags (R22) -/

/-- A destination tag, naming exactly one storage location (R8, R22). -/
inductive Loc where
  | gpr (i : Fin 31)
  | zr
  | sp
  | pc
  | fpr (i : Fin 32)
  deriving DecidableEq, Repr

/-- The tag of a field whose index 31 is SP. -/
def Loc.gprOrSp (i : RegIdx) : Loc := if h : i.toNat < 31 then .gpr ⟨i.toNat, h⟩ else .sp

/-- The tag of a field whose index 31 is the zero register. -/
def Loc.gprOrZr (i : RegIdx) : Loc := if h : i.toNat < 31 then .gpr ⟨i.toNat, h⟩ else .zr

/-- The tag of a float register field. -/
def Loc.ofFpr (i : RegIdx) : Loc := .fpr ⟨i.toNat, i.isLt⟩

/-- `ReadLoc(l)` (R22). -/
def State.readLoc (s : State) : Loc → Word
  | .gpr i => s.x[i]
  | .zr => 0#64
  | .sp => s.sp
  | .pc => s.pc
  | .fpr i => s.v[i]

/-- `WriteLoc(l, v)`: a write to the zero register is discarded (R12, R22). -/
def State.writeLoc (s : State) (l : Loc) (v : Word) : State :=
  match l with
  | .gpr i => s.setX i v
  | .zr => s
  | .sp => s.setSp v
  | .pc => s.setPc v
  | .fpr i => s.setV i v

/-! ## Immediates (R65) -/

/-- `zext_64(imm12)`: SUB and CMP (immediate). -/
def immOperand (imm12 : BitVec 12) : Word := imm12.zeroExtend 64

/-- `zext_64(imm12) << 2`: the 32-bit load and store. -/
def offset32 (imm12 : BitVec 12) : Word := imm12.zeroExtend 64 <<< 2

/-- `zext_64(imm12) << 3`: the 64-bit load and store. -/
def offset64 (imm12 : BitVec 12) : Word := imm12.zeroExtend 64 <<< 3

/-- `sext_64(imm26) << 2`: B. -/
def branchOffset26 (imm26 : BitVec 26) : Word := imm26.signExtend 64 <<< 2

/-- `sext_64(imm19) << 2`: B.cond. -/
def branchOffset19 (imm19 : BitVec 19) : Word := imm19.signExtend 64 <<< 2

/-! ## The shifted second operand (R131) -/

/-- `Shift(v, shift, imm6)`; code 11 gives no operand: decode fails. -/
def shiftOperand (v : Word) (shift : ShiftType) (imm6 : BitVec 6) : Option Word :=
  match shift with
  | .lsl => some (v <<< imm6.toNat)
  | .lsr => some (v >>> imm6.toNat)
  | .asr => some (v.sshiftRight imm6.toNat)
  | .reserved => none

end Sys2Proof.Machine
end

