-- ==== Sys2Proof/Machine/Stages.lean ====
section
/-! DEFINITION. The pipeline latches (spec/10_state.md R22, R23) and the stages after decode
(spec/40_pipeline_stages.md R95 to R105). Latches, `ALUOutput` and `MDR` are local values of a tick (R26). -/

namespace Sys2Proof.Machine

open Sys2Proof

/-! ## Control fields (R23) -/

/-- `aluControl`, 3 bits: 0 ALU_UNDEF, 1 ADD, 2 SUB, 3 SUBS, 4 to 7 unsupported. -/
inductive AluControl where
  | undef
  | add
  | sub
  | subs
  | unsupported (k : Fin 4)
  deriving DecidableEq, Repr

/-- `memControl`, 3 bits: 0 none, 1 read32, 2 write32, 3 read64, 4 write64, 5 to 7 unsupported. -/
inductive MemControl where
  | none
  | read32
  | write32
  | read64
  | write64
  | unsupported (k : Fin 3)
  deriving DecidableEq, Repr

/-- `wbControl`, 2 bits: 0 none, 1 reg-write, 2 and 3 unsupported. -/
inductive WbControl where
  | none
  | regWrite
  | unsupported (k : Fin 2)
  deriving DecidableEq, Repr

/-- `floatOpKind`, 1 bit: 0 undefined (integer domain), 1 32-bit-float. -/
inductive FloatOpKind where
  | undefined
  | float32
  deriving DecidableEq, Repr

def AluControl.code : AluControl → BitVec 3
  | .undef => 0#3
  | .add => 1#3
  | .sub => 2#3
  | .subs => 3#3
  | .unsupported k => BitVec.ofNat 3 (4 + k.val)

def MemControl.code : MemControl → BitVec 3
  | .none => 0#3
  | .read32 => 1#3
  | .write32 => 2#3
  | .read64 => 3#3
  | .write64 => 4#3
  | .unsupported k => BitVec.ofNat 3 (5 + k.val)

def WbControl.code : WbControl → BitVec 2
  | .none => 0#2
  | .regWrite => 1#2
  | .unsupported k => BitVec.ofNat 2 (2 + k.val)

def FloatOpKind.code : FloatOpKind → BitVec 1
  | .undefined => 0#1
  | .float32 => 1#1

/-- The ID/EX latch group (R22). Decode gives all of it or nothing (R94). -/
structure Latches where
  operandA : Word
  operandB : Word
  destination : Loc
  aluControl : AluControl
  memControl : MemControl
  wbControl : WbControl
  memToReg : Bool
  floatOpKind : FloatOpKind
  deriving DecidableEq, Repr

/-! ## How a stage ends -/

/-- A stage is done, or fails with a cause in the state it leaves (R171, R104), or is stuck on a request
the memory does not accept (R47). -/
inductive StageResult (α : Type) where
  | done (a : α)
  | failed (c : Cause) (s : State)
  | stuck (f : Fault)

/-- The next stage runs only if this one is done (R90). -/
def StageResult.andThen {α β : Type} (r : StageResult α) (next : α → StageResult β) : StageResult β :=
  match r with
  | .done a => next a
  | .failed c s => .failed c s
  | .stuck f => .stuck f

/-- The tick's outcome: a failure is a next state with the sticky error set (R171). -/
def StageResult.outcome (r : StageResult State) : Host.Outcome State Fault Refusal :=
  match r with
  | .done s => .next s
  | .failed c s => .next (s.raise c)
  | .stuck f => .fault f

/-! ## Execute (R95 to R98) -/

/-- The integer domain (R96); SUBS also writes the flags (R97). -/
def executeInt (a b : Word) (ctl : AluControl) (s : State) : StageResult (Word × State) :=
  match ctl with
  | .add => .done (a + b, s)
  | .sub => .done (a - b, s)
  | .subs => .done (a - b, s.writeSubFlags a b)
  | .undef => .failed .unimplementedALUControl s
  | .unsupported _ => .failed .unimplementedALUControl s

/-- The float domain (R98): the low 32 bits of the operands, the result zero-extended. -/
def executeFloat (a b : Word) (ctl : AluControl) (s : State) : StageResult (Word × State) :=
  match ctl with
  | .add => .done ((fp32Add (a.extractLsb' 0 32) (b.extractLsb' 0 32)).zeroExtend 64, s)
  | .sub => .done ((fp32Sub (a.extractLsb' 0 32) (b.extractLsb' 0 32)).zeroExtend 64, s)
  | .subs => .failed .unimplementedALUControl s
  | .undef => .failed .unimplementedALUControl s
  | .unsupported _ => .failed .unimplementedALUControl s

/-- The execute stage (R95): `ALUOutput` and the state after it. -/
def executeStage (l : Latches) (s : State) : StageResult (Word × State) :=
  match l.floatOpKind with
  | .undefined => executeInt l.operandA l.operandB l.aluControl s
  | .float32 => executeFloat l.operandA l.operandB l.aluControl s

/-! ## Memory (R99 to R102) -/

/-- A port answer as a stage result: a request that is not accepted leaves the agent stuck (R47). -/
def StageResult.ofPort {α : Type} (r : Except Fault α) : StageResult α :=
  match r with
  | .ok a => .done a
  | .error f => .stuck f

/-- The memory stage (R99) on a given collaborator: the loaded value if there is one, and the state after
it. A store takes its data from the location the destination names (R100); a 32-bit load is
zero-extended (R101). -/
def memoryStageWith (c : Collaborator) (ctl : MemControl) (dest : Loc) (addr : Word) (s : State) :
    StageResult (Option Word × State) :=
  match ctl with
  | .none => .done (Option.none, s)
  | .read32 => (StageResult.ofPort (s.readData32With c addr)).andThen fun d => .done (some (d.1.zeroExtend 64), d.2)
  | .read64 => (StageResult.ofPort (s.readData64With c addr)).andThen fun d => .done (some d.1, d.2)
  | .write32 =>
    (StageResult.ofPort (s.writeData32With c addr ((s.readLoc dest).extractLsb' 0 32))).andThen fun t =>
      .done (Option.none, t)
  | .write64 =>
    (StageResult.ofPort (s.writeData64With c addr (s.readLoc dest))).andThen fun t => .done (Option.none, t)
  | .unsupported _ => .failed .unimplementedMemoryControl s

/-- The memory stage on the reference memory. -/
def memoryStage (ctl : MemControl) (dest : Loc) (addr : Word) (s : State) :
    StageResult (Option Word × State) :=
  memoryStageWith .reference ctl dest addr s

/-! ## Write-back and PC update (R103) -/

/-- The value write-back commits: `MDR` if memToReg, else `ALUOutput`. `MDR` without a load is free
(log 12). -/
def committedValue (memToReg : Bool) (aluOutput : Word) (loaded : Option Word) : Word :=
  if memToReg then loaded.getD Config.mdrWithoutLoad else aluOutput

/-- The write-back stage (R103), the only place an instruction writes the register file. -/
def writeBackStage (ctl : WbControl) (dest : Loc) (value : Word) (s : State) : StageResult State :=
  match ctl with
  | .none => .done s
  | .regWrite => .done (s.writeLoc dest value)
  | .unsupported _ => .failed .unimplementedWriteBackControl s

/-- The PC update after write-back: PC + 4 unless the instruction wrote the PC (R16, R103). -/
def advancePc (ctl : WbControl) (dest : Loc) (s : State) : State :=
  if ctl = .regWrite ∧ dest = .pc then s else s.setPc (s.pc + 4#64)

/-! ## The tick after decode (R105) -/

/-- Execute, Memory, Write-back and the PC update on complete latches (R90, R105), on a given
collaborator. -/
def finishTickWith (c : Collaborator) (l : Latches) (s : State) : Host.Outcome State Fault Refusal :=
  ((executeStage l s).andThen fun e =>
    (memoryStageWith c l.memControl l.destination e.1 e.2).andThen fun m =>
      (writeBackStage l.wbControl l.destination (committedValue l.memToReg e.1 m.1) m.2).andThen fun t =>
        .done (advancePc l.wbControl l.destination t)).outcome

/-- The rest of a tick on the reference memory. -/
def finishTick (l : Latches) (s : State) : Host.Outcome State Fault Refusal := finishTickWith .reference l s

/-- A tick whose decode gives latches or fails: a failed decode changes nothing but the error state
(R94, R173). -/
def finishDecoded (l : Option Latches) (s : State) : Host.Outcome State Fault Refusal :=
  match l with
  | some l => finishTick l s
  | none => .next (s.raise .unimplementedInstruction)

/-! ## Shapes of latches shared by several instructions (the table of R93) -/

/-- An integer operation whose result goes to a register. -/
def latchIntResult (a b : Word) (ctl : AluControl) (dest : Loc) : Latches where
  operandA := a
  operandB := b
  destination := dest
  aluControl := ctl
  memControl := .none
  wbControl := .regWrite
  memToReg := false
  floatOpKind := .undefined

/-- A float operation (FADD, FSUB). -/
def latchFloatResult (a b : Word32) (ctl : AluControl) (dest : Loc) : Latches where
  operandA := a.zeroExtend 64
  operandB := b.zeroExtend 64
  destination := dest
  aluControl := ctl
  memControl := .none
  wbControl := .regWrite
  memToReg := false
  floatOpKind := .float32

/-- A load: the address is base + offset, the loaded value is committed. -/
def latchLoad (base offset : Word) (ctl : MemControl) (dest : Loc) : Latches where
  operandA := base
  operandB := offset
  destination := dest
  aluControl := .add
  memControl := ctl
  wbControl := .regWrite
  memToReg := true
  floatOpKind := .undefined

/-- A store: the address is base + offset, the destination names the data (R100). -/
def latchStore (base offset : Word) (ctl : MemControl) (src : Loc) : Latches where
  operandA := base
  operandB := offset
  destination := src
  aluControl := .add
  memControl := ctl
  wbControl := .none
  memToReg := false
  floatOpKind := .undefined

/-- A branch: the sum goes to the PC if the branch is taken (D28). -/
def latchBranch (base offset : Word) (taken : Bool) : Latches where
  operandA := base
  operandB := offset
  destination := .pc
  aluControl := .add
  memControl := .none
  wbControl := if taken then .regWrite else .none
  memToReg := false
  floatOpKind := .undefined

end Sys2Proof.Machine
end

