-- ==== Sys2Proof/Machine/Branch.lean ====
section
/-! DEFINITION. Branches, spec/45_branch.md: B, B.cond and RET. All write the PC through write-back. -/

namespace Sys2Proof.Machine

open Sys2Proof

/-- What decode latches for B (R161, R93). -/
def latchB (imm26 : BitVec 26) (s : State) : Latches :=
  latchBranch s.pc (branchOffset26 imm26) true

/-- B, R161. -/
def execB (imm26 : BitVec 26) (s : State) : Host.Outcome State Fault Refusal :=
  finishTick (latchB imm26 s) s

/-- What decode latches for B.cond; a condition that needs a carry flag has no latches, so a term that
holds one fails decode (R162, R163, R93; log 14). -/
def latchBCond (cond : Cond) (imm19 : BitVec 19) (s : State) : Option Latches :=
  (s.condHolds cond).map fun taken => latchBranch s.pc (branchOffset19 imm19) taken

/-- B.cond, R163. -/
def execBCond (cond : Cond) (imm19 : BitVec 19) (s : State) : Host.Outcome State Fault Refusal :=
  finishDecoded (latchBCond cond imm19 s) s

/-- What decode latches for RET: the target plus 0 (R164, R93). -/
def latchRet (rn : RegIdx) (s : State) : Latches := latchBranch (s.retTarget rn) 0#64 true

/-- RET, R164. -/
def execRet (rn : RegIdx) (s : State) : Host.Outcome State Fault Refusal :=
  finishTick (latchRet rn s) s

end Sys2Proof.Machine
end

