-- ==== Sys2Proof/Machine/DpImmediate.lean ====
section
/-! DEFINITION. Data-processing (immediate), spec/41_dp_immediate.md: SUB and CMP. -/

namespace Sys2Proof.Machine

open Sys2Proof

/-- What decode latches for SUB (immediate) (R121, R93). -/
def latchSubImm (rd rn : RegIdx) (imm12 : BitVec 12) (s : State) : Latches :=
  latchIntResult (s.xOrSp rn) (immOperand imm12) .sub (Loc.gprOrSp rd)

/-- SUB (immediate), R121. -/
def execSubImm (rd rn : RegIdx) (imm12 : BitVec 12) (s : State) : Host.Outcome State Fault Refusal :=
  finishTick (latchSubImm rd rn imm12 s) s

/-- What decode latches for CMP (immediate): SUBS, nothing written back (R122, R93). -/
def latchCmpImm (rn : RegIdx) (imm12 : BitVec 12) (s : State) : Latches where
  operandA := s.xOrSp rn
  operandB := immOperand imm12
  destination := .zr
  aluControl := .subs
  memControl := .none
  wbControl := .none
  memToReg := false
  floatOpKind := .undefined

/-- CMP (immediate), R122. -/
def execCmpImm (rn : RegIdx) (imm12 : BitVec 12) (s : State) : Host.Outcome State Fault Refusal :=
  finishTick (latchCmpImm rn imm12 s) s

end Sys2Proof.Machine
end

