-- ==== Sys2Proof/Machine/DpRegister.lean ====
section
/-! DEFINITION. Data-processing (register), spec/42_dp_register.md: ADD and SUB (shifted register). Shift
code 11 has no latches, so a term that holds it fails decode (log 14); the decoder gives no such term. -/

namespace Sys2Proof.Machine

open Sys2Proof

/-- What decode latches for ADD (shifted register) (R132, R93). -/
def latchAddShifted (rd rn rm : RegIdx) (shift : ShiftType) (imm6 : BitVec 6) (s : State) :
    Option Latches :=
  (shiftOperand (s.xOrZr rm) shift imm6).map fun b =>
    latchIntResult (s.xOrZr rn) b .add (Loc.gprOrZr rd)

/-- ADD (shifted register), R132. -/
def execAddShifted (rd rn rm : RegIdx) (shift : ShiftType) (imm6 : BitVec 6) (s : State) :
    Host.Outcome State Fault Refusal :=
  finishDecoded (latchAddShifted rd rn rm shift imm6 s) s

/-- What decode latches for SUB (shifted register) (R133, R93). -/
def latchSubShifted (rd rn rm : RegIdx) (shift : ShiftType) (imm6 : BitVec 6) (s : State) :
    Option Latches :=
  (shiftOperand (s.xOrZr rm) shift imm6).map fun b =>
    latchIntResult (s.xOrZr rn) b .sub (Loc.gprOrZr rd)

/-- SUB (shifted register), R133. -/
def execSubShifted (rd rn rm : RegIdx) (shift : ShiftType) (imm6 : BitVec 6) (s : State) :
    Host.Outcome State Fault Refusal :=
  finishDecoded (latchSubShifted rd rn rm shift imm6 s) s

end Sys2Proof.Machine
end

