-- ==== Sys2Proof/Machine/FpScalar.lean ====
section
/-! DEFINITION. Scalar floating point, spec/43_fp_scalar.md: FADD and FSUB, single precision. -/

namespace Sys2Proof.Machine

open Sys2Proof

/-- What decode latches for FADD (R144, R93). -/
def latchFadd (rd rn rm : RegIdx) (s : State) : Latches :=
  latchFloatResult (s.sReg rn) (s.sReg rm) .add (Loc.ofFpr rd)

/-- FADD (scalar, single precision), R144. -/
def execFadd (rd rn rm : RegIdx) (s : State) : Host.Outcome State Fault Refusal :=
  finishTick (latchFadd rd rn rm s) s

/-- What decode latches for FSUB (R145, R93). -/
def latchFsub (rd rn rm : RegIdx) (s : State) : Latches :=
  latchFloatResult (s.sReg rn) (s.sReg rm) .sub (Loc.ofFpr rd)

/-- FSUB (scalar, single precision), R145. -/
def execFsub (rd rn rm : RegIdx) (s : State) : Host.Outcome State Fault Refusal :=
  finishTick (latchFsub rd rn rm s) s

end Sys2Proof.Machine
end

