-- ==== Sys2Proof/Machine/LoadStore.lean ====
section
/-! DEFINITION. Load/store, spec/44_load_store.md: LDR and STR (unsigned offset), 32 and 64 bits. -/

namespace Sys2Proof.Machine

open Sys2Proof

/-- What decode latches for LDR (unsigned offset, 32-bit) (R152, R93). -/
def latchLdr32 (rt rn : RegIdx) (imm12 : BitVec 12) (s : State) : Latches :=
  latchLoad (s.xOrSp rn) (offset32 imm12) .read32 (Loc.gprOrZr rt)

/-- LDR (unsigned offset, 32-bit), R152, on a given collaborator. -/
def execLdr32With (c : Collaborator) (rt rn : RegIdx) (imm12 : BitVec 12) (s : State) :
    Host.Outcome State Fault Refusal :=
  finishTickWith c (latchLdr32 rt rn imm12 s) s

/-- LDR (unsigned offset, 32-bit), R152, on the reference memory (log 4). -/
def execLdr32 (rt rn : RegIdx) (imm12 : BitVec 12) (s : State) : Host.Outcome State Fault Refusal :=
  execLdr32With .reference rt rn imm12 s

/-- What decode latches for LDR (unsigned offset, 64-bit) (R153, R93). -/
def latchLdr64 (rt rn : RegIdx) (imm12 : BitVec 12) (s : State) : Latches :=
  latchLoad (s.xOrSp rn) (offset64 imm12) .read64 (Loc.gprOrZr rt)

/-- LDR (unsigned offset, 64-bit), R153, on a given collaborator. -/
def execLdr64With (c : Collaborator) (rt rn : RegIdx) (imm12 : BitVec 12) (s : State) :
    Host.Outcome State Fault Refusal :=
  finishTickWith c (latchLdr64 rt rn imm12 s) s

/-- LDR (unsigned offset, 64-bit), R153, on the reference memory (log 4). -/
def execLdr64 (rt rn : RegIdx) (imm12 : BitVec 12) (s : State) : Host.Outcome State Fault Refusal :=
  execLdr64With .reference rt rn imm12 s

/-- What decode latches for STR (unsigned offset, 32-bit) (R154, R93). -/
def latchStr32 (rt rn : RegIdx) (imm12 : BitVec 12) (s : State) : Latches :=
  latchStore (s.xOrSp rn) (offset32 imm12) .write32 (Loc.gprOrZr rt)

/-- STR (unsigned offset, 32-bit), R154, on a given collaborator. -/
def execStr32With (c : Collaborator) (rt rn : RegIdx) (imm12 : BitVec 12) (s : State) :
    Host.Outcome State Fault Refusal :=
  finishTickWith c (latchStr32 rt rn imm12 s) s

/-- STR (unsigned offset, 32-bit), R154, on the reference memory (log 4). -/
def execStr32 (rt rn : RegIdx) (imm12 : BitVec 12) (s : State) : Host.Outcome State Fault Refusal :=
  execStr32With .reference rt rn imm12 s

/-- What decode latches for STR (unsigned offset, 64-bit) (R155, R93). -/
def latchStr64 (rt rn : RegIdx) (imm12 : BitVec 12) (s : State) : Latches :=
  latchStore (s.xOrSp rn) (offset64 imm12) .write64 (Loc.gprOrZr rt)

/-- STR (unsigned offset, 64-bit), R155, on a given collaborator. -/
def execStr64With (c : Collaborator) (rt rn : RegIdx) (imm12 : BitVec 12) (s : State) :
    Host.Outcome State Fault Refusal :=
  finishTickWith c (latchStr64 rt rn imm12 s) s

/-- STR (unsigned offset, 64-bit), R155, on the reference memory (log 4). -/
def execStr64 (rt rn : RegIdx) (imm12 : BitVec 12) (s : State) : Host.Outcome State Fault Refusal :=
  execStr64With .reference rt rn imm12 s

end Sys2Proof.Machine
end

