-- ==== Sys2Proof/Machine/Dispatch.lean ====
section
/-! DEFINITION. The meaning of every instruction: the stages after fetch and word decode. -/

namespace Sys2Proof.Machine

open Sys2Proof

def exec (i : Instr) (s : State) : Host.Outcome State Fault Refusal :=
  match i with
  | .subImm rd rn imm12 => Sys2Proof.Machine.execSubImm rd rn imm12 s
  | .cmpImm rn imm12 => Sys2Proof.Machine.execCmpImm rn imm12 s
  | .addShifted rd rn rm shift imm6 => Sys2Proof.Machine.execAddShifted rd rn rm shift imm6 s
  | .subShifted rd rn rm shift imm6 => Sys2Proof.Machine.execSubShifted rd rn rm shift imm6 s
  | .fadd rd rn rm => Sys2Proof.Machine.execFadd rd rn rm s
  | .fsub rd rn rm => Sys2Proof.Machine.execFsub rd rn rm s
  | .ldr32 rt rn imm12 => Sys2Proof.Machine.execLdr32 rt rn imm12 s
  | .ldr64 rt rn imm12 => Sys2Proof.Machine.execLdr64 rt rn imm12 s
  | .str32 rt rn imm12 => Sys2Proof.Machine.execStr32 rt rn imm12 s
  | .str64 rt rn imm12 => Sys2Proof.Machine.execStr64 rt rn imm12 s
  | .b imm26 => Sys2Proof.Machine.execB imm26 s
  | .bCond cond imm19 => Sys2Proof.Machine.execBCond cond imm19 s
  | .ret rn => Sys2Proof.Machine.execRet rn s

end Sys2Proof.Machine
end

