-- ==== Sys2Proof/Machine/Driver.lean ====
section
/-! DEFINITION. The tick from fetch on (spec/40_pipeline_stages.md R90, R105) and the pipeline driver that
repeats it (R110 to R113). -/

namespace Sys2Proof.Machine

open Sys2Proof

/-! A definition whose name ends in `With` is the machine on a given memory collaborator, the parameter
`Mem` of R6. The same name without it is the machine on the reference memory, which `step` runs (log 4). The
shapes both have are said once, in the definitions whose names end in `By`. -/

abbrev TickOutcome := Host.Outcome State Fault Refusal

/-- The meaning of an instruction on a given collaborator: only a load or a store makes a request of it
(R42). -/
def execWith (c : Collaborator) (i : Instr) (s : State) : TickOutcome :=
  match i with
  | .ldr32 rt rn imm12 => execLdr32With c rt rn imm12 s
  | .ldr64 rt rn imm12 => execLdr64With c rt rn imm12 s
  | .str32 rt rn imm12 => execStr32With c rt rn imm12 s
  | .str64 rt rn imm12 => execStr64With c rt rn imm12 s
  | .subImm rd rn imm12 => exec (.subImm rd rn imm12) s
  | .cmpImm rn imm12 => exec (.cmpImm rn imm12) s
  | .addShifted rd rn rm shift imm6 => exec (.addShifted rd rn rm shift imm6) s
  | .subShifted rd rn rm shift imm6 => exec (.subShifted rd rn rm shift imm6) s
  | .fadd rd rn rm => exec (.fadd rd rn rm) s
  | .fsub rd rn rm => exec (.fsub rd rn rm) s
  | .b imm26 => exec (.b imm26) s
  | .bCond cond imm19 => exec (.bCond cond imm19) s
  | .ret rn => exec (.ret rn) s

/-- The tick on a fetched word: a word that does not decode raises UnimplementedInstruction and changes
nothing else (R70, R94, R173). -/
def tickOnWordBy (meaning : Instr → State → TickOutcome) (w : Word32) (s : State) : TickOutcome :=
  match decode w with
  | .ok i => meaning i s
  | .error _ => .next (s.raise .unimplementedInstruction)

def tickOnWordWith (c : Collaborator) (w : Word32) (s : State) : TickOutcome :=
  tickOnWordBy (execWith c) w s

def tickOnWord (w : Word32) (s : State) : Host.Outcome State Fault Refusal := tickOnWordBy exec w s

/-- One tick (R90, R105): the fetch, then the rest on the fetched word. A fetch the memory does not
accept leaves the agent stuck (R47). -/
def tickBy (onWord : Word32 → State → TickOutcome) (fetched : Except Fault (Word32 × State)) : TickOutcome :=
  match fetched with
  | .ok r => onWord r.1 r.2
  | .error f => .fault f

def tickWith (c : Collaborator) (s : State) : TickOutcome := tickBy (tickOnWordWith c) (s.fetchWith c)

def tick (s : State) : Host.Outcome State Fault Refusal := tickBy tickOnWord (s.fetchWith .reference)

/-- One turn of the driver's loop (R111) with the value `finished` has now (R112): the sticky error
first, then the completion signal, then a tick. A halted driver has no turn (R110). -/
def driverTurnBy (tick : State → TickOutcome) (finished : Bool) (s : State) : TickOutcome :=
  match s.runState with
  | .haltedOk => .fault .haltedOk
  | .haltedError => .fault .haltedError
  | .running =>
    match s.cpuError with
    | .unimplemented => .next (s.setRunState .haltedError)
    | .none => if finished then .next (s.setRunState .haltedOk) else tick s

def driverTurnWith (c : Collaborator) (finished : Bool) (s : State) : TickOutcome :=
  driverTurnBy (tickWith c) finished s

def driverTurn (finished : Bool) (s : State) : Host.Outcome State Fault Refusal :=
  driverTurnBy tick finished s

/-- The sample of `finished` a turn reads: the next of the list, false when there is none (log 7). -/
def State.finishedNow (s : State) : Bool := s.finishedInput.headD false

/-- The state with that sample used up (log 7). -/
def State.dropFinishedSample (s : State) : State := s.setFinishedInput s.finishedInput.tail

/-- One turn of the driver on the samples the state holds. -/
def driverStep (s : State) : Host.Outcome State Fault Refusal :=
  driverTurn s.finishedNow s.dropFinishedSample

/-- One turn of the driver under a predicate on the state between ticks, the form R112 gives `finished`;
the samples of the state are not used. -/
def driverStepUnder (finished : State → Bool) (s : State) : Host.Outcome State Fault Refusal :=
  driverTurn (finished s) s

/-- The same on a given collaborator: `finished` and `Mem` both as R6 gives them. -/
def driverStepUnderWith (c : Collaborator) (finished : State → Bool) (s : State) : TickOutcome :=
  driverTurnWith c (finished s) s

/-- `run(startAddress)` begins: the PC and the run state, nothing else, on a first or a second call
(R111, R196). -/
def State.beginRun (s : State) (startAddress : Word) : State := (s.setPc startAddress).setRunState .running

/-- The status `run` returns once the driver has halted (R113); none while it is running. -/
def State.runStatus (s : State) : Option Nat :=
  match s.runState with
  | .running => none
  | .haltedOk => some 0
  | .haltedError => some 1

/-- The loop of R111 for at most `turns` turns: the status and the state when it halts. None when it
has not halted by then, or is stuck. -/
def runLoopBy (turn : State → TickOutcome) : Nat → State → Option (Nat × State)
  | 0, _ => none
  | turns + 1, s =>
    match turn s with
    | .next t =>
      match t.runStatus with
      | some status => some (status, t)
      | none => runLoopBy turn turns t
    | .fault _ => none
    | .refused _ => none

def runLoop (finished : State → Bool) (turns : Nat) (s : State) : Option (Nat × State) :=
  runLoopBy (driverStepUnder finished) turns s

/-- `run(startAddress)` with at most `turns` turns of the loop (R111, R113). -/
def runWith (c : Collaborator) (finished : State → Bool) (turns : Nat) (startAddress : Word) (s : State) :
    Option (Nat × State) :=
  runLoopBy (driverStepUnderWith c finished) turns (s.beginRun startAddress)

def run (finished : State → Bool) (turns : Nat) (startAddress : Word) (s : State) : Option (Nat × State) :=
  runLoop finished turns (s.beginRun startAddress)

end Sys2Proof.Machine
end

