-- ==== Sys2Proof/Machine/Step.lean ====
section
/-! DEFINITION. One step of the machine: one turn of the driver's loop (spec/40_pipeline_stages.md R111). -/

namespace Sys2Proof.Machine

open Sys2Proof

/-- One step: the driver's turn on the sampled `finished` signal. -/
def step (s : State) : Host.Outcome State Fault Refusal := driverStep s

/-- The state with an instruction stored at the PC, where the next step fetches (log 11). -/
def State.withFetchWord (s : State) (nbits w : Nat) : State := s.storeAtPc (tableWord nbits w)

end Sys2Proof.Machine
end

