-- ==== Sys2Proof/Machine/HostAccess.lean ====
section
/-! DEFINITION. The host's typed accessors (spec/10_state.md R30). They act between ticks only; `step`
calls none of them, and the setters are for seeding before `run` (R30, R114, log 16). -/

namespace Sys2Proof.Machine

open Sys2Proof

def State.getX (s : State) (i : Fin 31) : Word := s.x[i]
def State.hostSetX (s : State) (i : Fin 31) (v : Word) : State := s.setX i v

/-- The low 32 bits of X[i] (R17). -/
def State.getW (s : State) (i : Fin 31) : Word32 := s.x[i].extractLsb' 0 32

/-- A 32-bit write clears the upper half (R17). -/
def State.hostSetW (s : State) (i : Fin 31) (v : Word32) : State := s.setX i (v.zeroExtend 64)

def State.getSP (s : State) : Word := s.sp
def State.hostSetSP (s : State) (v : Word) : State := s.setSp v

/-- The PC is read only: `run` sets it (R30). -/
def State.getPC (s : State) : Word := s.pc

/-- The D view: all 64 bits of V[i] (R18). -/
def State.getD (s : State) (i : Fin 32) : Word := s.v[i]
def State.hostSetD (s : State) (i : Fin 32) (v : Word) : State := s.setV i v

/-- The S view: the low 32 bits of V[i] (R18). -/
def State.getS (s : State) (i : Fin 32) : Word32 := s.v[i].extractLsb' 0 32

/-- A 32-bit write clears the upper half (R18, R30). -/
def State.hostSetS (s : State) (i : Fin 32) (v : Word32) : State := s.setV i (v.zeroExtend 64)

/-- The error state and its cause (R30). -/
def State.getError (s : State) : CpuError × ErrorCause := (s.cpuError, s.errorCause)

end Sys2Proof.Machine
end

