-- ==== Sys2Proof/Safety.lean ====
section
/-! DEFINITION. What counts as a consistent state and a safe run, in the terms the statements use. -/

namespace Sys2Proof.Machine

open Sys2Proof

/-- `cpuError = NONE` exactly when `errorCause = NONE` (R27). -/
def State.errorStateConsistent (s : State) : Prop := s.cpuError = .none ↔ s.errorCause = .none

/-- `runState = HALTED_ERROR` exactly when `cpuError = UNIMPLEMENTED` (R28). -/
def State.runStateConsistent (s : State) : Prop :=
  s.runState = .haltedError ↔ s.cpuError = .unimplemented

/-- The memory listing is in its canonical form. -/
def State.memoryCanonical (s : State) : Prop := s.mem.wf = true

/-- The invariant of the machine between ticks. -/
structure State.Inv (s : State) : Prop where
  error : s.errorStateConsistent
  run : s.runStateConsistent
  memory : s.memoryCanonical

/-- The states a run passes through, the one it begins with included. -/
inductive Reaches : State → State → Prop where
  | refl (s : State) : Reaches s s
  | tail {s t u : State} : Reaches s t → step t = .next u → Reaches s u

/-- A safe state: no failure has been recorded. -/
def State.Safe (s : State) : Prop := s.cpuError = .none ∧ s.errorCause = .none

/-- The byte at a 64-bit address, as a read of the reference memory sees it (R45). -/
def State.byte (s : State) (a : Word) : Byte := s.mem.readByte a.toNat

/-- An outcome without the samples of `finished` that a state still holds: what is left is what the spec
gives the machine (log 7). -/
def withoutSamples (o : Host.Outcome State Fault Refusal) : Host.Outcome State Fault Refusal :=
  match o with
  | .next s => .next (s.setFinishedInput [])
  | .fault f => .fault f
  | .refused r => .refused r

/-- An outcome without the flags. -/
def withoutFlags (o : Host.Outcome State Fault Refusal) : Host.Outcome State Fault Refusal :=
  match o with
  | .next s => .next (s.setFlags false false false)
  | .fault f => .fault f
  | .refused r => .refused r

/-- The machine whose driver evaluates a predicate on the state between ticks, the form R112 gives
`finished`. -/
def coreUnder (finished : State → Bool) : Host.Core :=
  { State := State,
    Fault := Fault,
    Refusal := Refusal,
    step := driverStepUnder finished,
    reset := State.reset }

/-- The pattern is a binary32 NaN: bits 30 to 23 all ones, bits 22 to 0 not all zero (R143). -/
def isFp32Nan (p : Word32) : Bool := p.extractLsb' 23 8 == 0xFF#8 && p.extractLsb' 0 23 != 0#23

/-- The address lies in the `len` bytes from `base` on, addresses wrapping modulo 2^64. -/
def inBytes (base : Word) (len : Nat) (a : Word) : Prop := (a - base).toNat < len

end Sys2Proof.Machine
end

