-- ==== Sys2Proof/Certificates/Slice0/Obligations.lean ====
section
/-! DEFINITION. The statements about the model, for the provers. Each is about the machine, for every
state and every operand; R<n> are the rules of spec/, "log <n>" a row of notes/assumptions. -/

open Sys2Proof Sys2Proof.Machine

/-! ## Encoding -/

/-- Words of each family written out from R63 and R66 decode to the instruction they stand for
(spec/95_test_vectors.md sections 1 and 2.1). -/
def Obligations.SampleWordsDecode : Prop :=
  decode 0xD10043FF#32 = .ok (.subImm 31#5 31#5 16#12) ∧
  decode 0xF100003F#32 = .ok (.cmpImm 1#5 0#12) ∧
  decode 0x8B041062#32 = .ok (.addShifted 2#5 3#5 4#5 .lsl 4#6) ∧
  decode 0xCB840462#32 = .ok (.subShifted 2#5 3#5 4#5 .asr 1#6) ∧
  decode 0x1E212802#32 = .ok (.fadd 2#5 0#5 1#5) ∧
  decode 0x1E203823#32 = .ok (.fsub 3#5 1#5 0#5) ∧
  decode 0xB9400420#32 = .ok (.ldr32 0#5 1#5 1#12) ∧
  decode 0xF94007E3#32 = .ok (.ldr64 3#5 31#5 1#12) ∧
  decode 0xB9000FE1#32 = .ok (.str32 1#5 31#5 3#12) ∧
  decode 0xF9000425#32 = .ok (.str64 5#5 1#5 1#12) ∧
  decode 0x17FFFFFE#32 = .ok (.b 0x3FFFFFE#26) ∧
  decode 0x54FFFFA1#32 = .ok (.bCond .ne 0x7FFFD#19) ∧
  decode 0xD65F03C0#32 = .ok (.ret 30#5)

/-- R71: every word of the table fails decode, and a tick on it raises UnimplementedInstruction and
changes nothing else. -/
def Obligations.ListedWordsFail : Prop :=
  ∀ w ∈ [0x00000000#32, 0xD503201F#32, 0xD1400421#32, 0xF1000420#32, 0xF140043F#32, 0x91000421#32,
      0x51000421#32, 0x8BC40462#32, 0x0B010000#32, 0xAB010000#32, 0x8B210000#32, 0xAA0103E0#32,
      0x1E612802#32, 0x1E210802#32, 0xB8404420#32, 0xBD400020#32, 0x39400020#32, 0xB9800020#32,
      0x94000001#32, 0xD61F0020#32, 0xD65F0001#32, 0xB4000040#32, 0x54000042#32, 0x54000050#32,
      0xD4000001#32, 0xD5033FDF#32, 0xD53B4200#32],
    ∀ s : State, tickOnWord w s = .next
      { s with cpuError := .unimplemented, errorCause := .unimplementedInstruction,
               runState := .haltedError }

/-- Decoding an encoded well-formed instruction gives it back, for every operand. -/
def Obligations.DecodeEncodeRoundTrip : Prop :=
  ∀ i : Instr, i.wellFormed = true → decode (encode i) = .ok i

/-- A word that decodes is the word of the instruction it decodes to, which is well-formed: every bit is
fixed by the row or read into a field (R63). -/
def Obligations.EncodeDecodeRoundTrip : Prop :=
  ∀ (w : Word32) (i : Instr), decode w = .ok i → i.wellFormed = true ∧ encode i = w

/-- R62: the thirteen rows are pairwise disjoint, each lies in its group, and the two-level decode and a
flat search of the rows accept the same words and choose the same row. -/
def Obligations.TwoLevelDecodeAgreesWithRows : Prop :=
  opcodeRows.map (fun r => groupOf r.value) =
    [some .dpImmediate, some .dpImmediate, some .dpRegister, some .dpRegister, some .scalarFp, some .scalarFp,
      some .loadStore, some .loadStore, some .loadStore, some .loadStore, some .branch, some .branch,
      some .branch] ∧
  opcodeRows.Pairwise (fun r q => ∀ w : Word32, ¬ (r.accepts w = true ∧ q.accepts w = true)) ∧
  (∀ (w : Word32) (i : Instr), decode w = .ok i → i.row.accepts w = true) ∧
  (∀ (w : Word32), ∀ r ∈ opcodeRows, r.accepts w = true → ∃ i, decode w = .ok i ∧ i.row = r)

/-- R61: the group is a function of bits 28 to 25 alone, by the table, and a word without a group fails
decode. -/
def Obligations.GroupByBits28To25 : Prop :=
  ∀ w : Word32, let g := w.extractLsb' 25 4
    (groupOf w = some .dpImmediate ↔ g.extractLsb' 1 3 = 0b100#3) ∧
    (groupOf w = some .dpRegister ↔ g.extractLsb' 0 3 = 0b101#3) ∧
    (groupOf w = some .scalarFp ↔ g.extractLsb' 0 3 = 0b111#3) ∧
    (groupOf w = some .loadStore ↔ g.getLsbD 2 = true ∧ g.getLsbD 0 = false) ∧
    (groupOf w = some .branch ↔ g.extractLsb' 1 3 = 0b101#3) ∧
    (groupOf w = none ↔ g.extractLsb' 2 2 = 0b00#2) ∧
    (groupOf w = none → ∀ s : State, tickOnWord w s = .next (s.raise .unimplementedInstruction))

/-- R65: the operand each immediate becomes and its range. -/
def Obligations.ImmediateOperandRanges : Prop :=
  (∀ (rd rn : RegIdx) (imm12 : BitVec 12) (s : State),
    (latchSubImm rd rn imm12 s).operandB.toNat = imm12.toNat ∧
    (latchCmpImm rn imm12 s).operandB.toNat = imm12.toNat ∧ imm12.toNat ≤ 4095) ∧
  (∀ w : Word32, w &&& 0xFFC00000#32 = 0xD1400000#32 ∨ w &&& 0xFFC0001F#32 = 0xF140001F#32 →
    ∃ e, decode w = .error e) ∧
  (∀ (rd rn rm : RegIdx) (shift : ShiftType) (imm6 : BitVec 6) (s : State),
    (latchAddShifted rd rn rm shift imm6 s).map (·.operandB) = shiftOperand (s.xOrZr rm) shift imm6 ∧
    (latchSubShifted rd rn rm shift imm6 s).map (·.operandB) = shiftOperand (s.xOrZr rm) shift imm6 ∧
    imm6.toNat ≤ 63) ∧
  (∀ (rt rn : RegIdx) (imm12 : BitVec 12) (s : State),
    (latchLdr32 rt rn imm12 s).operandB.toNat = 4 * imm12.toNat ∧
    (latchStr32 rt rn imm12 s).operandB.toNat = 4 * imm12.toNat ∧ 4 * imm12.toNat ≤ 16380 ∧
    (latchLdr64 rt rn imm12 s).operandB.toNat = 8 * imm12.toNat ∧
    (latchStr64 rt rn imm12 s).operandB.toNat = 8 * imm12.toNat ∧ 8 * imm12.toNat ≤ 32760) ∧
  (∀ (imm26 : BitVec 26) (s : State),
    (latchB imm26 s).operandB.toInt = 4 * imm26.toInt ∧
    -2 ^ 27 ≤ 4 * imm26.toInt ∧ 4 * imm26.toInt ≤ 2 ^ 27 - 4) ∧
  (∀ (cond : Cond) (imm19 : BitVec 19) (s : State) (l : Latches), latchBCond cond imm19 s = some l →
    l.operandB.toInt = 4 * imm19.toInt ∧ -2 ^ 20 ≤ 4 * imm19.toInt ∧ 4 * imm19.toInt ≤ 2 ^ 20 - 4)

/-! ## Data processing -/

/-- R121, SUB (immediate): the encoding, the failing shift bit, the latches, and the whole next state. -/
def Obligations.SubImmediate : Prop :=
  (∀ w : Word32, w &&& 0xFFC00000#32 = 0xD1000000#32 →
    decode w = .ok (.subImm (w.extractLsb' 0 5) (w.extractLsb' 5 5) (w.extractLsb' 10 12))) ∧
  (∀ w : Word32, w &&& 0xFFC00000#32 = 0xD1400000#32 →
    ∀ s : State, tickOnWord w s = .next (s.raise .unimplementedInstruction)) ∧
  (∀ (rd rn : RegIdx) (imm12 : BitVec 12) (s : State),
    let a := if h : rn.toNat < 31 then s.x[rn.toNat] else s.sp
    let r := a - imm12.setWidth 64
    latchSubImm rd rn imm12 s =
      { operandA := a, operandB := imm12.setWidth 64,
        destination := if h : rd.toNat < 31 then .gpr ⟨rd.toNat, h⟩ else .sp,
        aluControl := .sub, memControl := .none, wbControl := .regWrite, memToReg := false,
        floatOpKind := .undefined } ∧
    exec (.subImm rd rn imm12) s = .next
      (if h : rd.toNat < 31 then { s with x := s.x.set rd.toNat r h, pc := s.pc + 4#64 }
       else { s with sp := r, pc := s.pc + 4#64 }))

/-- R122, CMP (immediate): the encoding, the failing shift bit and the failing `Rd != 31`, the latches, and
the whole next state: the three flags and the PC, no register. -/
def Obligations.CmpImmediate : Prop :=
  (∀ w : Word32, w &&& 0xFFC0001F#32 = 0xF100001F#32 →
    decode w = .ok (.cmpImm (w.extractLsb' 5 5) (w.extractLsb' 10 12))) ∧
  (∀ w : Word32, w &&& 0xFFC00000#32 = 0xF1400000#32 ∨
      (w &&& 0xFFC00000#32 = 0xF1000000#32 ∧ w.extractLsb' 0 5 ≠ 31#5) →
    ∀ s : State, tickOnWord w s = .next (s.raise .unimplementedInstruction)) ∧
  (∀ (rn : RegIdx) (imm12 : BitVec 12) (s : State),
    let a := if h : rn.toNat < 31 then s.x[rn.toNat] else s.sp
    let r := a - imm12.setWidth 64
    latchCmpImm rn imm12 s =
      { operandA := a, operandB := imm12.setWidth 64, destination := .zr,
        aluControl := .subs, memControl := .none, wbControl := .none, memToReg := false,
        floatOpKind := .undefined } ∧
    exec (.cmpImm rn imm12) s = .next
      { s with n := r.getLsbD 63, z := decide (r = 0#64),
               vf := a.getLsbD 63 && !r.getLsbD 63, pc := s.pc + 4#64 })

/-- R131: the shifted operand as arithmetic, its corner cases, and shift code 11. -/
def Obligations.ShiftedOperand : Prop :=
  (∀ (v : Word) (imm6 : BitVec 6),
    (∃ r, shiftOperand v .lsl imm6 = some r ∧ r.toNat = v.toNat * 2 ^ imm6.toNat % 2 ^ 64) ∧
    (∃ r, shiftOperand v .lsr imm6 = some r ∧ r.toNat = v.toNat / 2 ^ imm6.toNat) ∧
    (∃ r, shiftOperand v .asr imm6 = some r ∧ r.toInt = v.toInt / 2 ^ imm6.toNat)) ∧
  (∀ v : Word, shiftOperand v .lsl 0#6 = some v ∧ shiftOperand v .lsr 0#6 = some v ∧
    shiftOperand v .asr 0#6 = some v ∧
    shiftOperand v .asr 63#6 = some (if v.getLsbD 63 then 0xFFFFFFFFFFFFFFFF#64 else 0#64) ∧
    shiftOperand v .lsr 63#6 = some (if v.getLsbD 63 then 1#64 else 0#64) ∧
    shiftOperand v .lsl 63#6 = some (if v.getLsbD 0 then 0x8000000000000000#64 else 0#64)) ∧
  (∀ w : Word32, (w &&& 0xFF200000#32 = 0x8B000000#32 ∨ w &&& 0xFF200000#32 = 0xCB000000#32) →
    w.extractLsb' 22 2 = 0b11#2 →
    ∀ s : State, tickOnWord w s = .next (s.raise .unimplementedInstruction))

/-- R132, ADD (shifted register): the encoding with its exclusion, the latches, and the whole next state;
index 31 is the zero register in every field. -/
def Obligations.AddShiftedRegister : Prop :=
  (∀ w : Word32, w &&& 0xFF200000#32 = 0x8B000000#32 →
    if w.extractLsb' 22 2 = 0b11#2 then
      ∀ s : State, tickOnWord w s = .next (s.raise .unimplementedInstruction)
    else decode w = .ok (.addShifted (w.extractLsb' 0 5) (w.extractLsb' 5 5) (w.extractLsb' 16 5)
      (ShiftType.ofCode (w.extractLsb' 22 2)) (w.extractLsb' 10 6))) ∧
  (∀ (rd rn rm : RegIdx) (shift : ShiftType) (imm6 : BitVec 6) (s : State) (b : Word),
    let a := if h : rn.toNat < 31 then s.x[rn.toNat] else 0#64
    shiftOperand (if h : rm.toNat < 31 then s.x[rm.toNat] else 0#64) shift imm6 = some b →
    latchAddShifted rd rn rm shift imm6 s = some
      { operandA := a, operandB := b,
        destination := if h : rd.toNat < 31 then .gpr ⟨rd.toNat, h⟩ else .zr,
        aluControl := .add, memControl := .none, wbControl := .regWrite, memToReg := false,
        floatOpKind := .undefined } ∧
    exec (.addShifted rd rn rm shift imm6) s = .next
      (if h : rd.toNat < 31 then { s with x := s.x.set rd.toNat (a + b) h, pc := s.pc + 4#64 }
       else { s with pc := s.pc + 4#64 }))

/-- R133, SUB (shifted register), as ADD with the difference; the flag-setting form fails decode. -/
def Obligations.SubShiftedRegister : Prop :=
  (∀ w : Word32, w &&& 0xFF200000#32 = 0xCB000000#32 →
    if w.extractLsb' 22 2 = 0b11#2 then
      ∀ s : State, tickOnWord w s = .next (s.raise .unimplementedInstruction)
    else decode w = .ok (.subShifted (w.extractLsb' 0 5) (w.extractLsb' 5 5) (w.extractLsb' 16 5)
      (ShiftType.ofCode (w.extractLsb' 22 2)) (w.extractLsb' 10 6))) ∧
  (∀ w : Word32, w &&& 0xFF200000#32 = 0xEB000000#32 →
    ∀ s : State, tickOnWord w s = .next (s.raise .unimplementedInstruction)) ∧
  (∀ (rd rn rm : RegIdx) (shift : ShiftType) (imm6 : BitVec 6) (s : State) (b : Word),
    let a := if h : rn.toNat < 31 then s.x[rn.toNat] else 0#64
    shiftOperand (if h : rm.toNat < 31 then s.x[rm.toNat] else 0#64) shift imm6 = some b →
    latchSubShifted rd rn rm shift imm6 s = some
      { operandA := a, operandB := b,
        destination := if h : rd.toNat < 31 then .gpr ⟨rd.toNat, h⟩ else .zr,
        aluControl := .sub, memControl := .none, wbControl := .regWrite, memToReg := false,
        floatOpKind := .undefined } ∧
    exec (.subShifted rd rn rm shift imm6) s = .next
      (if h : rd.toNat < 31 then { s with x := s.x.set rd.toNat (a - b) h, pc := s.pc + 4#64 }
       else { s with pc := s.pc + 4#64 }))

/-- The model's own treatment (log 14) of the terms no word decodes to: a shift code 11 or a condition
that needs a carry flag raises UnimplementedInstruction, and nothing else changes. -/
def Obligations.UndecodableFormsRaise : Prop :=
  (∀ (rd rn rm : RegIdx) (imm6 : BitVec 6) (s : State),
    exec (.addShifted rd rn rm .reserved imm6) s = .next (s.raise .unimplementedInstruction) ∧
    exec (.subShifted rd rn rm .reserved imm6) s = .next (s.raise .unimplementedInstruction)) ∧
  (∀ (cond : Cond) (imm19 : BitVec 19) (s : State), cond.supported = false →
    exec (.bCond cond imm19) s = .next (s.raise .unimplementedInstruction))

/-! ## Floating point -/

/-- R144, FADD: the encoding, the latches, and the whole next state. -/
def Obligations.FaddSingle : Prop :=
  (∀ w : Word32, w &&& 0xFFE0FC00#32 = 0x1E202800#32 →
    decode w = .ok (.fadd (w.extractLsb' 0 5) (w.extractLsb' 5 5) (w.extractLsb' 16 5))) ∧
  (∀ (rd rn rm : RegIdx) (s : State),
    let a := (s.v[rn.toNat]'rn.isLt).extractLsb' 0 32
    let b := (s.v[rm.toNat]'rm.isLt).extractLsb' 0 32
    latchFadd rd rn rm s =
      { operandA := a.setWidth 64, operandB := b.setWidth 64, destination := .fpr ⟨rd.toNat, rd.isLt⟩,
        aluControl := .add, memControl := .none, wbControl := .regWrite, memToReg := false,
        floatOpKind := .float32 } ∧
    exec (.fadd rd rn rm) s = .next
      { s with v := s.v.set rd.toNat ((fp32Add a b).setWidth 64) rd.isLt, pc := s.pc + 4#64 })

/-- R145, FSUB: the encoding, the latches, and the whole next state; a register minus itself. -/
def Obligations.FsubSingle : Prop :=
  (∀ w : Word32, w &&& 0xFFE0FC00#32 = 0x1E203800#32 →
    decode w = .ok (.fsub (w.extractLsb' 0 5) (w.extractLsb' 5 5) (w.extractLsb' 16 5))) ∧
  (∀ (rd rn rm : RegIdx) (s : State),
    let a := (s.v[rn.toNat]'rn.isLt).extractLsb' 0 32
    let b := (s.v[rm.toNat]'rm.isLt).extractLsb' 0 32
    latchFsub rd rn rm s =
      { operandA := a.setWidth 64, operandB := b.setWidth 64, destination := .fpr ⟨rd.toNat, rd.isLt⟩,
        aluControl := .sub, memControl := .none, wbControl := .regWrite, memToReg := false,
        floatOpKind := .float32 } ∧
    exec (.fsub rd rn rm) s = .next
      { s with v := s.v.set rd.toNat ((fp32Sub a b).setWidth 64) rd.isLt, pc := s.pc + 4#64 }) ∧
  (∀ (a : Word32) (n : Bool) (u : Nat), fp32Value a = .finite n u → fp32Sub a a = 0x00000000#32) ∧
  (∀ (a : Word32) (n : Bool), fp32Value a = .infinity n ∨ fp32Value a = .nan →
    isFp32Nan (fp32Sub a a) = true)

/-- R141: FADD and FSUB read the low 32 bits of the sources, zero-extended; what a 32-bit pattern denotes,
in units of 2^-149. -/
def Obligations.Fp32PatternTable : Prop :=
  (∀ (rd rn rm : RegIdx) (s : State),
    (latchFadd rd rn rm s).operandA = ((s.v[rn.toNat]'rn.isLt).extractLsb' 0 32).setWidth 64 ∧
    (latchFadd rd rn rm s).operandB = ((s.v[rm.toNat]'rm.isLt).extractLsb' 0 32).setWidth 64 ∧
    (latchFsub rd rn rm s).operandA = ((s.v[rn.toNat]'rn.isLt).extractLsb' 0 32).setWidth 64 ∧
    (latchFsub rd rn rm s).operandB = ((s.v[rm.toNat]'rm.isLt).extractLsb' 0 32).setWidth 64) ∧
  ∀ p : Word32, let e := (p.extractLsb' 23 8).toNat
    let f := (p.extractLsb' 0 23).toNat
    (e = 0 → fp32Value p = .finite (p.getLsbD 31) f) ∧
    (1 ≤ e ∧ e ≤ 254 →
      fp32Value p = .finite (p.getLsbD 31) ((2 ^ 23 + f) * 2 ^ (e - 1))) ∧
    (e = 255 ∧ f = 0 → fp32Value p = .infinity (p.getLsbD 31)) ∧
    (e = 255 ∧ f ≠ 0 → fp32Value p = .nan)

/-- Steps 1 and 3 to 5 of R142: subtraction by the inverted sign when neither operand is a NaN, infinities,
and the sign of an exact zero sum. -/
def Obligations.Fp32SpecialSums : Prop :=
  (∀ a b : Word32, isFp32Nan a = false → isFp32Nan b = false →
    isFp32Nan (fp32Add a (b ^^^ 0x80000000#32)) = false →
    fp32Sub a b = fp32Add a (b ^^^ 0x80000000#32)) ∧
  (∀ a b : Word32, ∀ na, fp32Value a = .infinity na →
    (fp32Value b = .infinity na → fp32Add a b = a) ∧
    (fp32Value b = .infinity (!na) → isFp32Nan (fp32Add a b) = true) ∧
    (∀ nb ub, fp32Value b = .finite nb ub → fp32Add a b = a ∧ fp32Add b a = a)) ∧
  (∀ (a b : Word32) (na nb : Bool) (ua ub : Nat), fp32Value a = .finite na ua →
    fp32Value b = .finite nb ub →
    (if na then -(ua : Int) else ua) + (if nb then -(ub : Int) else ub) = 0 →
    fp32Add a b = if a = 0x80000000#32 ∧ b = 0x80000000#32 then 0x80000000#32 else 0x00000000#32)

/-- Step 6 of R142: a sum that is not zero rounds to the nearest representable value, ties to the one
whose last significant bit is 0, exactly below 2^24 units of 2^-149, and to an infinity of its sign from
2^128 - 2^103 on, which is (2^25 - 1) * 2^252 units. -/
def Obligations.Fp32SumRoundsToNearestEven : Prop :=
  ∀ (a b : Word32) (na nb : Bool) (ua ub : Nat), fp32Value a = .finite na ua →
    fp32Value b = .finite nb ub →
    let x : Int := (if na then -(ua : Int) else ua) + (if nb then -(ub : Int) else ub)
    x ≠ 0 →
    if (2 ^ 25 - 1) * 2 ^ 252 ≤ x.natAbs then
      fp32Value (fp32Add a b) = .infinity (decide (x < 0))
    else
      ∃ u, fp32Value (fp32Add a b) = .finite (decide (x < 0)) u ∧
        (x.natAbs < 2 ^ 24 → u = x.natAbs) ∧
        let r : Int := if x < 0 then -(u : Int) else u
        ∀ (p : Word32) (np : Bool) (up : Nat), fp32Value p = .finite np up →
          let q : Int := if np then -(up : Int) else up
          (x - r).natAbs ≤ (x - q).natAbs ∧
          ((x - r).natAbs = (x - q).natAbs → q ≠ r → (fp32Add a b).getLsbD 0 = false)

/-- R143: when R142 says the result is a NaN, the result is some NaN pattern, and no pattern among the
NaNs is ruled out by the form the open parameter has. -/
def Obligations.NanResultIsSomeNan : Prop :=
  (∀ a b : Word32, (isFp32Nan a = true ∨ isFp32Nan b = true ∨
      ∃ n, fp32Value a = .infinity n ∧ fp32Value b = .infinity (!n)) → isFp32Nan (fp32Add a b) = true) ∧
  (∀ a b : Word32, (isFp32Nan a = true ∨ isFp32Nan b = true ∨
      ∃ n, fp32Value a = .infinity n ∧ fp32Value b = .infinity n) → isFp32Nan (fp32Sub a b) = true) ∧
  (∀ q : NaN32, isFp32Nan (fp32NanPattern q) = true) ∧
  (∀ p : Word32, isFp32Nan p = true → ∃ q : NaN32, fp32NanPattern q = p)

/-! ## Loads and stores -/

/-- R152, LDR 32-bit: the encoding, the latches, and the whole next state where the memory accepts the
read: the value the port answers is zero-extended, and index 31 discards it. -/
def Obligations.Ldr32 : Prop :=
  (∀ w : Word32, w &&& 0xFFC00000#32 = 0xB9400000#32 →
    decode w = .ok (.ldr32 (w.extractLsb' 0 5) (w.extractLsb' 5 5) (w.extractLsb' 10 12))) ∧
  (∀ (rt rn : RegIdx) (imm12 : BitVec 12) (s : State),
    let base := if h : rn.toNat < 31 then s.x[rn.toNat] else s.sp
    let addr := base + (imm12.setWidth 64 <<< 2)
    latchLdr32 rt rn imm12 s =
      { operandA := base, operandB := imm12.setWidth 64 <<< 2,
        destination := if h : rt.toNat < 31 then .gpr ⟨rt.toNat, h⟩ else .zr,
        aluControl := .add, memControl := .read32, wbControl := .regWrite, memToReg := true,
        floatOpKind := .undefined } ∧
    (s.memAdmit .read32 addr = true → ∃ v : Word32, s.readData32 addr = .ok v ∧
      exec (.ldr32 rt rn imm12) s = .next
        (if h : rt.toNat < 31 then { s with x := s.x.set rt.toNat (v.setWidth 64) h, pc := s.pc + 4#64 }
         else { s with pc := s.pc + 4#64 })))

/-- R153, LDR 64-bit, as R152 without the extension. -/
def Obligations.Ldr64 : Prop :=
  (∀ w : Word32, w &&& 0xFFC00000#32 = 0xF9400000#32 →
    decode w = .ok (.ldr64 (w.extractLsb' 0 5) (w.extractLsb' 5 5) (w.extractLsb' 10 12))) ∧
  (∀ (rt rn : RegIdx) (imm12 : BitVec 12) (s : State),
    let base := if h : rn.toNat < 31 then s.x[rn.toNat] else s.sp
    let addr := base + (imm12.setWidth 64 <<< 3)
    latchLdr64 rt rn imm12 s =
      { operandA := base, operandB := imm12.setWidth 64 <<< 3,
        destination := if h : rt.toNat < 31 then .gpr ⟨rt.toNat, h⟩ else .zr,
        aluControl := .add, memControl := .read64, wbControl := .regWrite, memToReg := true,
        floatOpKind := .undefined } ∧
    (s.memAdmit .read64 addr = true → ∃ v : Word, s.readData64 addr = .ok v ∧
      exec (.ldr64 rt rn imm12) s = .next
        (if h : rt.toNat < 31 then { s with x := s.x.set rt.toNat v h, pc := s.pc + 4#64 }
         else { s with pc := s.pc + 4#64 })))

/-- R154, STR 32-bit: the encoding, the latches, and the whole next state where the memory accepts the
write: the port writes the low half of Rt (0 for index 31), and no register changes. -/
def Obligations.Str32 : Prop :=
  (∀ w : Word32, w &&& 0xFFC00000#32 = 0xB9000000#32 →
    decode w = .ok (.str32 (w.extractLsb' 0 5) (w.extractLsb' 5 5) (w.extractLsb' 10 12))) ∧
  (∀ (rt rn : RegIdx) (imm12 : BitVec 12) (s : State),
    let base := if h : rn.toNat < 31 then s.x[rn.toNat] else s.sp
    let addr := base + (imm12.setWidth 64 <<< 2)
    let data : Word32 := if h : rt.toNat < 31 then s.x[rt.toNat].extractLsb' 0 32 else 0#32
    latchStr32 rt rn imm12 s =
      { operandA := base, operandB := imm12.setWidth 64 <<< 2,
        destination := if h : rt.toNat < 31 then .gpr ⟨rt.toNat, h⟩ else .zr,
        aluControl := .add, memControl := .write32, wbControl := .none, memToReg := false,
        floatOpKind := .undefined } ∧
    (s.memAdmit .write32 addr = true → ∃ m : Memory, s.writeData32 addr data = .ok { s with mem := m } ∧
      exec (.str32 rt rn imm12) s = .next { s with mem := m, pc := s.pc + 4#64 }))

/-- R155, STR 64-bit: all 64 bits of Rt (0 for index 31) are stored. -/
def Obligations.Str64 : Prop :=
  (∀ w : Word32, w &&& 0xFFC00000#32 = 0xF9000000#32 →
    decode w = .ok (.str64 (w.extractLsb' 0 5) (w.extractLsb' 5 5) (w.extractLsb' 10 12))) ∧
  (∀ (rt rn : RegIdx) (imm12 : BitVec 12) (s : State),
    let base := if h : rn.toNat < 31 then s.x[rn.toNat] else s.sp
    let addr := base + (imm12.setWidth 64 <<< 3)
    let data : Word := if h : rt.toNat < 31 then s.x[rt.toNat] else 0#64
    latchStr64 rt rn imm12 s =
      { operandA := base, operandB := imm12.setWidth 64 <<< 3,
        destination := if h : rt.toNat < 31 then .gpr ⟨rt.toNat, h⟩ else .zr,
        aluControl := .add, memControl := .write64, wbControl := .none, memToReg := false,
        floatOpKind := .undefined } ∧
    (s.memAdmit .write64 addr = true → ∃ m : Memory, s.writeData64 addr data = .ok { s with mem := m } ∧
      exec (.str64 rt rn imm12) s = .next { s with mem := m, pc := s.pc + 4#64 }))

/-- The bytes a store leaves (the reference memory of R45, which the model takes: log 4): the bytes of the
data at the computed address and on, lowest byte first, and every other byte as before. -/
def Obligations.StoresWriteExactlyTheirBytes : Prop :=
  ∀ (rt rn : RegIdx) (imm12 : BitVec 12) (s : State), s.memoryCanonical →
    (let addr := s.xOrSp rn + (imm12.setWidth 64 <<< 2)
     ∀ t, exec (.str32 rt rn imm12) s = .next t →
      (∀ k : Nat, k < 4 → t.byte (addr + BitVec.ofNat 64 k) = (s.xOrZr rt).extractLsb' (8 * k) 8) ∧
      (∀ a : Word, ¬ inBytes addr 4 a → t.byte a = s.byte a)) ∧
    (let addr := s.xOrSp rn + (imm12.setWidth 64 <<< 3)
     ∀ t, exec (.str64 rt rn imm12) s = .next t →
      (∀ k : Nat, k < 8 → t.byte (addr + BitVec.ofNat 64 k) = (s.xOrZr rt).extractLsb' (8 * k) 8) ∧
      (∀ a : Word, ¬ inBytes addr 8 a → t.byte a = s.byte a))

/-- The value an accepted fetch or read gives in the reference memory (R45, log 4): little-endian, byte
addresses modulo 2^64, whatever else the memory refuses (form of `mem_admit`: log 6). -/
def Obligations.ReadsAreLittleEndian : Prop :=
  ∀ (s : State) (a : Word),
    (∀ k : Nat, k < 4 →
      (s.mem.read32 a).extractLsb' (8 * k) 8 = s.byte (a + BitVec.ofNat 64 k)) ∧
    (∀ k : Nat, k < 8 →
      (s.mem.read64 a).extractLsb' (8 * k) 8 = s.byte (a + BitVec.ofNat 64 k)) ∧
    (s.memAdmit .fetch32 a = true → s.readInstruction32 a = .ok (s.mem.read32 a)) ∧
    (s.memAdmit .read32 a = true → s.readData32 a = .ok (s.mem.read32 a)) ∧
    (s.memAdmit .read64 a = true → s.readData64 a = .ok (s.mem.read64 a)) ∧
    (s.memRefused = [] → ∀ k : RequestKind, s.memAdmit k a = true)

/-- A load after a store to the same bytes, same width, returns the stored value (R52 (a), on the memory
of log 4). -/
def Obligations.LoadAfterStoreReturnsValue : Prop :=
  ∀ (s : State) (a : Word), s.memoryCanonical →
    (∀ (v : Word32) (t : State), s.writeData32 a v = .ok t → t.memAdmit .read32 a = true →
      t.readData32 a = .ok v) ∧
    (∀ (v : Word) (t : State), s.writeData64 a v = .ok t → t.memAdmit .read64 a = true →
      t.readData64 a = .ok v)

/-- A store is seen by the next fetch of the address (R55, on the unified memory of log 4): a 32-bit
store at the next PC, and a 64-bit store at it or four bytes below it. -/
def Obligations.StoreIsSeenByNextFetch : Prop :=
  ∀ (rt rn : RegIdx) (imm12 : BitVec 12) (s t : State), s.memoryCanonical → t.memAdmit .fetch32 t.pc = true →
    (exec (.str32 rt rn imm12) s = .next t → s.xOrSp rn + (imm12.setWidth 64 <<< 2) = t.pc →
      t.fetch = .ok ((s.xOrZr rt).extractLsb' 0 32)) ∧
    (exec (.str64 rt rn imm12) s = .next t → s.xOrSp rn + (imm12.setWidth 64 <<< 3) = t.pc →
      t.fetch = .ok ((s.xOrZr rt).extractLsb' 0 32)) ∧
    (exec (.str64 rt rn imm12) s = .next t → s.xOrSp rn + (imm12.setWidth 64 <<< 3) = t.pc - 4#64 →
      t.fetch = .ok ((s.xOrZr rt).extractLsb' 32 32))

/-- A request the memory does not accept gives the tick no step (R47; the form of `mem_admit` is the
model's, log 6), and with nothing refused every request is accepted. -/
def Obligations.RefusedRequestLeavesNoStep : Prop :=
  (∀ (s : State), s.memRefused = [] → ∀ (k : RequestKind) (a : Word), s.memAdmit k a = true) ∧
  (∀ (rt rn : RegIdx) (imm12 : BitVec 12) (s : State),
    let addr32 := s.xOrSp rn + (imm12.setWidth 64 <<< 2)
    let addr64 := s.xOrSp rn + (imm12.setWidth 64 <<< 3)
    (s.memAdmit .read32 addr32 = false →
      exec (.ldr32 rt rn imm12) s = .fault (.memoryRequestNotAdmitted .read32 addr32)) ∧
    (s.memAdmit .read64 addr64 = false →
      exec (.ldr64 rt rn imm12) s = .fault (.memoryRequestNotAdmitted .read64 addr64)) ∧
    (s.memAdmit .write32 addr32 = false →
      exec (.str32 rt rn imm12) s = .fault (.memoryRequestNotAdmitted .write32 addr32)) ∧
    (s.memAdmit .write64 addr64 = false →
      exec (.str64 rt rn imm12) s = .fault (.memoryRequestNotAdmitted .write64 addr64))) ∧
  (∀ s : State, s.runState = .running → s.cpuError = .none → s.finishedNow = false →
    s.memAdmit .fetch32 s.pc = false → step s = .fault (.memoryRequestNotAdmitted .fetch32 s.pc))

/-! ## Branches -/

/-- R161, B: the encoding, the latches, and the whole next state. -/
def Obligations.BranchImmediate : Prop :=
  (∀ w : Word32, w &&& 0xFC000000#32 = 0x14000000#32 → decode w = .ok (.b (w.extractLsb' 0 26))) ∧
  (∀ (imm26 : BitVec 26) (s : State),
    latchB imm26 s =
      { operandA := s.pc, operandB := imm26.signExtend 64 <<< 2, destination := .pc,
        aluControl := .add, memControl := .none, wbControl := .regWrite, memToReg := false,
        floatOpKind := .undefined } ∧
    exec (.b imm26) s = .next { s with pc := s.pc + (imm26.signExtend 64 <<< 2) })

/-- R162: the table of conditions, by name and by the 4-bit code, the reading of `cond[3:1]` and `cond[0]`, the four conditions that fail,
and what the conditions mean after CMP. -/
def Obligations.ConditionEvaluation : Prop :=
  (∀ s : State,
    s.condHolds .eq = some s.z ∧ s.condHolds .ne = some (!s.z) ∧
    s.condHolds .mi = some s.n ∧ s.condHolds .pl = some (!s.n) ∧
    s.condHolds .vs = some s.vf ∧ s.condHolds .vc = some (!s.vf) ∧
    s.condHolds .ge = some (s.n == s.vf) ∧ s.condHolds .lt = some (s.n != s.vf) ∧
    s.condHolds .gt = some (!s.z && s.n == s.vf) ∧ s.condHolds .le = some (s.z || s.n != s.vf) ∧
    s.condHolds .al = some true ∧ s.condHolds .nv = some true ∧
    s.condHolds .cs = none ∧ s.condHolds .cc = none ∧ s.condHolds .hi = none ∧ s.condHolds .ls = none) ∧
  (∀ s : State,
    s.condHolds (Cond.ofCode 0b0000#4) = some s.z ∧ s.condHolds (Cond.ofCode 0b0001#4) = some (!s.z) ∧
    s.condHolds (Cond.ofCode 0b0010#4) = none ∧ s.condHolds (Cond.ofCode 0b0011#4) = none ∧
    s.condHolds (Cond.ofCode 0b0100#4) = some s.n ∧ s.condHolds (Cond.ofCode 0b0101#4) = some (!s.n) ∧
    s.condHolds (Cond.ofCode 0b0110#4) = some s.vf ∧ s.condHolds (Cond.ofCode 0b0111#4) = some (!s.vf) ∧
    s.condHolds (Cond.ofCode 0b1000#4) = none ∧ s.condHolds (Cond.ofCode 0b1001#4) = none ∧
    s.condHolds (Cond.ofCode 0b1010#4) = some (s.n == s.vf) ∧
    s.condHolds (Cond.ofCode 0b1011#4) = some (s.n != s.vf) ∧
    s.condHolds (Cond.ofCode 0b1100#4) = some (!s.z && s.n == s.vf) ∧
    s.condHolds (Cond.ofCode 0b1101#4) = some (s.z || s.n != s.vf) ∧
    s.condHolds (Cond.ofCode 0b1110#4) = some true ∧ s.condHolds (Cond.ofCode 0b1111#4) = some true) ∧
  (∀ c : Cond, Cond.ofCode c.code = c) ∧ (∀ k : BitVec 4, (Cond.ofCode k).code = k) ∧
  (∀ (s : State) (c d : Cond) (hc hd : Bool), c.code.extractLsb' 1 3 = d.code.extractLsb' 1 3 →
    c.code.getLsbD 0 = false → d.code.getLsbD 0 = true → d ≠ .nv →
    s.condHolds c = some hc → s.condHolds d = some hd → hd = !hc) ∧
  (∀ w : Word32, w &&& 0xFF000010#32 = 0x54000000#32 →
    w.extractLsb' 0 4 ∈ [0b0010#4, 0b0011#4, 0b1000#4, 0b1001#4] →
    ∀ s : State, tickOnWord w s = .next (s.raise .unimplementedInstruction)) ∧
  (∀ (rn : RegIdx) (imm12 : BitVec 12) (s t : State), exec (.cmpImm rn imm12) s = .next t →
    let a := s.xOrSp rn
    let imm : Int := imm12.toNat
    t.condHolds .eq = some (decide (a.toInt = imm)) ∧ t.condHolds .ne = some (decide (a.toInt ≠ imm)) ∧
    t.condHolds .ge = some (decide (a.toInt ≥ imm)) ∧ t.condHolds .lt = some (decide (a.toInt < imm)) ∧
    t.condHolds .gt = some (decide (a.toInt > imm)) ∧ t.condHolds .le = some (decide (a.toInt ≤ imm)) ∧
    t.condHolds .mi = some ((a - imm12.setWidth 64).getLsbD 63) ∧
    t.condHolds .vs = some (decide (a.toInt - imm < -2 ^ 63)))

/-- R163, B.cond: the encoding with its exclusions and the code the condition field holds, the latches, and
the whole next state. -/
def Obligations.BranchConditional : Prop :=
  (∀ w : Word32, w &&& 0xFF000010#32 = 0x54000000#32 →
    if w.extractLsb' 0 4 ∈ [0b0010#4, 0b0011#4, 0b1000#4, 0b1001#4] then
      ∀ s : State, tickOnWord w s = .next (s.raise .unimplementedInstruction)
    else ∃ cond : Cond, cond.code = w.extractLsb' 0 4 ∧ decode w = .ok (.bCond cond (w.extractLsb' 5 19))) ∧
  (Cond.eq.code = 0b0000#4 ∧ Cond.ne.code = 0b0001#4 ∧ Cond.mi.code = 0b0100#4 ∧ Cond.pl.code = 0b0101#4 ∧
    Cond.vs.code = 0b0110#4 ∧ Cond.vc.code = 0b0111#4 ∧ Cond.ge.code = 0b1010#4 ∧ Cond.lt.code = 0b1011#4 ∧
    Cond.gt.code = 0b1100#4 ∧ Cond.le.code = 0b1101#4 ∧ Cond.al.code = 0b1110#4 ∧ Cond.nv.code = 0b1111#4) ∧
  (∀ (cond : Cond) (imm19 : BitVec 19) (s : State) (taken : Bool), s.condHolds cond = some taken →
    latchBCond cond imm19 s = some
      { operandA := s.pc, operandB := imm19.signExtend 64 <<< 2, destination := .pc,
        aluControl := .add, memControl := .none, wbControl := if taken then .regWrite else .none,
        memToReg := false, floatOpKind := .undefined } ∧
    exec (.bCond cond imm19) s = .next
      { s with pc := if taken then s.pc + (imm19.signExtend 64 <<< 2) else s.pc + 4#64 })

/-- R164, RET: the encoding, the latches, and the whole next state: field 0 gives X[30], field 31 gives 0. -/
def Obligations.ReturnFromSubroutine : Prop :=
  (∀ w : Word32, w &&& 0xFFFFFC1F#32 = 0xD65F0000#32 → decode w = .ok (.ret (w.extractLsb' 5 5))) ∧
  (∀ (rn : RegIdx) (s : State),
    let target := if rn = 0#5 then s.x[30] else if h : rn.toNat < 31 then s.x[rn.toNat] else 0#64
    latchRet rn s =
      { operandA := target, operandB := 0#64, destination := .pc,
        aluControl := .add, memControl := .none, wbControl := .regWrite, memToReg := false,
        floatOpKind := .undefined } ∧
    exec (.ret rn) s = .next { s with pc := target })

/-- R16: a tick that fails leaves the PC; otherwise it is the target of a B, a taken B.cond or a RET, else
PC + 4 modulo 2^64. -/
def Obligations.PcAfterTick : Prop :=
  ∀ (w : Word32) (s t : State), tickOnWord w s = .next t →
    match decode w with
    | .error _ => t.pc = s.pc
    | .ok (.b imm26) => t.pc = s.pc + (imm26.signExtend 64 <<< 2)
    | .ok (.bCond c imm19) =>
      (s.condHolds c = some true → t.pc = s.pc + (imm19.signExtend 64 <<< 2)) ∧
      (s.condHolds c = some false → t.pc = s.pc + 4#64)
    | .ok (.ret rn) => t.pc = s.retTarget rn
    | .ok _ => t.pc = s.pc + 4#64

/-- Among R46's facts: only RET can change the PC's residue modulo 4. -/
def Obligations.OnlyRetChangesPcResidue : Prop :=
  ∀ (i : Instr) (s t : State), (∀ rn, i ≠ .ret rn) → exec i s = .next t →
    t.pc.toNat % 4 = s.pc.toNat % 4

/-! ## Flags, stages, failures -/

/-- R97: the execute stage writes the flags when and only when the domain is the integer one and the code
is SUBS; N, Z and Vf of the result; Vf is the signed overflow of the exact difference. -/
def Obligations.FlagWriteInExecute : Prop :=
  (∀ (l : Latches) (s : State), l.floatOpKind = .undefined → l.aluControl = .subs →
    let r := l.operandA - l.operandB
    executeStage l s = .done (r,
      { s with n := r.getLsbD 63, z := decide (r = 0#64),
               vf := (l.operandA.getLsbD 63 != l.operandB.getLsbD 63) &&
                 (r.getLsbD 63 != l.operandA.getLsbD 63) })) ∧
  (∀ (l : Latches) (s t : State) (r : Word), ¬ (l.floatOpKind = .undefined ∧ l.aluControl = .subs) →
    executeStage l s = .done (r, t) → t = s) ∧
  (∀ (a b : Word) (s : State), (s.writeSubFlags a b).vf = true ↔
    a.toInt - b.toInt < -2 ^ 63 ∨ 2 ^ 63 - 1 < a.toInt - b.toInt)

/-- R20: only CMP writes the flags, and only B.cond reads them: any other instruction's outcome, flags
apart, is the same whatever they hold. -/
def Obligations.FlagWritersAndReaders : Prop :=
  (∀ (i : Instr) (s t : State), (∀ rn imm12, i ≠ .cmpImm rn imm12) → exec i s = .next t →
    t.n = s.n ∧ t.z = s.z ∧ t.vf = s.vf) ∧
  (∀ (i : Instr) (s : State) (n z vf : Bool), (∀ c imm19, i ≠ .bCond c imm19) →
    withoutFlags (exec i (s.setFlags n z vf)) = withoutFlags (exec i s)) ∧
  (∀ (rn : RegIdx) (imm12 : BitVec 12) (s : State) (n z vf : Bool),
    exec (.cmpImm rn imm12) (s.setFlags n z vf) = exec (.cmpImm rn imm12) s)

/-- R12: the zero register reads 0 and a write to it changes no state. -/
def Obligations.ZeroRegister : Prop :=
  ∀ (s : State) (w : Word), s.readLoc .zr = 0#64 ∧ s.writeLoc .zr w = s ∧
    s.xOrZr 31#5 = 0#64 ∧ Loc.gprOrZr 31#5 = .zr

/-- R95, R96, R98: `floatOpKind` selects the domain; the integer sums as arithmetic modulo 2^64; the float
domain's zero-extended result; and a code absent from the active domain raising UnimplementedALUControl. -/
def Obligations.ExecuteDomains : Prop :=
  (∀ (l : Latches) (s : State), executeStage l s =
    if l.floatOpKind = .float32 then executeFloat l.operandA l.operandB l.aluControl s
    else executeInt l.operandA l.operandB l.aluControl s) ∧
  (∀ (a b : Word) (s : State), ∃ r d : Word,
    executeInt a b .add s = .done (r, s) ∧ r.toNat = (a.toNat + b.toNat) % 2 ^ 64 ∧
    executeInt a b .sub s = .done (d, s) ∧ (d.toNat : Int) = ((a.toNat : Int) - b.toNat) % 2 ^ 64 ∧
    executeInt a b .subs s = .done (d, s.writeSubFlags a b)) ∧
  (∀ (a b : Word) (s : State),
    executeFloat a b .add s = .done ((fp32Add (a.extractLsb' 0 32) (b.extractLsb' 0 32)).setWidth 64, s) ∧
    executeFloat a b .sub s = .done ((fp32Sub (a.extractLsb' 0 32) (b.extractLsb' 0 32)).setWidth 64, s)) ∧
  (∀ (l : Latches) (s : State),
    (l.floatOpKind = .undefined ∧ l.aluControl.code ∉ [1#3, 2#3, 3#3]) ∨
      (l.floatOpKind = .float32 ∧ l.aluControl.code ∉ [1#3, 2#3]) →
    finishTick l s = .next (s.raise .unimplementedALUControl))

/-- R175 with R104: the first failing stage ends the tick; what the earlier stages of the tick did stays. -/
def Obligations.FirstFailingStageEndsTick : Prop :=
  ∀ (l : Latches) (s s₁ : State) (r : Word), executeStage l s = .done (r, s₁) →
    (l.memControl.code ∈ [5#3, 6#3, 7#3] →
      finishTick l s = .next (s₁.raise .unimplementedMemoryControl)) ∧
    (∀ (d : Option Word) (s₂ : State), memoryStage l.memControl l.destination r s₁ = .done (d, s₂) →
      l.wbControl.code ∈ [2#2, 3#2] →
      finishTick l s = .next (s₂.raise .unimplementedWriteBackControl))

/-- R92 for the machine: an instruction that was decoded never fails a stage. It completes with the error
state as it was, or the memory refuses its one data request (R47), which is a fault in the form the model
gives it (log 6). -/
def Obligations.DecodedInstructionsNeverFail : Prop :=
  ∀ (w : Word32) (i : Instr) (s : State), decode w = .ok i →
    (∃ t, exec i s = .next t ∧ t.cpuError = s.cpuError ∧ t.errorCause = s.errorCause ∧
      t.runState = s.runState) ∨
    (∃ k a, exec i s = .fault (.memoryRequestNotAdmitted k a) ∧ s.memAdmit k a = false ∧
      ((∃ rt rn imm12, i = .ldr32 rt rn imm12 ∧ k = .read32) ∨
       (∃ rt rn imm12, i = .ldr64 rt rn imm12 ∧ k = .read64) ∨
       (∃ rt rn imm12, i = .str32 rt rn imm12 ∧ k = .write32) ∨
       (∃ rt rn imm12, i = .str64 rt rn imm12 ∧ k = .write64)))

/-- No instruction but a store changes memory (R42, on the reference memory, whose reads have no side
effect: log 4), and none changes the two fields of the model that stand for the inputs `mem_admit` (log 6) and
`finished` (log 7): that nothing writes them is the model's choice. -/
def Obligations.OnlyStoresChangeMemory : Prop :=
  ∀ (i : Instr) (s t : State), exec i s = .next t →
    t.memRefused = s.memRefused ∧ t.finishedInput = s.finishedInput ∧
    ((∀ rt rn imm12, i ≠ .str32 rt rn imm12 ∧ i ≠ .str64 rt rn imm12) → t.mem = s.mem)

/-- R70: a word that matches no row, at the PC of a running machine whose completion signal is false,
halts it with failure status and changes no register, flag or byte, under every predicate `finished` that is
false there. The clause about `step` rests on the samples a state of the model holds in its place (log 7). -/
def Obligations.UnmatchedWordHalts : Prop :=
  ∀ (s : State) (w : Word32), s.runState = .running → s.cpuError = .none → s.fetch = .ok w →
    (∀ r ∈ opcodeRows, r.accepts w = false) →
    let t := { s with cpuError := .unimplemented, errorCause := .unimplementedInstruction,
                      runState := .haltedError }
    t.runStatus = some 1 ∧
    (∀ finished : State → Bool, finished s = false → driverStepUnder finished s = .next t) ∧
    (s.finishedNow = false → step s = .next { t with finishedInput := s.finishedInput.tail })

/-! ## The driver -/

/-- A step runs the decoded instruction: when the four bytes at the PC, lowest address first (the
reference memory of R45, log 4), decode to `i`, the step of a running machine with no error and no completion
signal is `exec i` on the state, one sample of `finished` used (log 7). -/
def Obligations.StepRunsDecodedInstruction : Prop :=
  ∀ (s : State) (i : Instr), s.runState = .running → s.cpuError = .none → s.finishedNow = false →
    s.memAdmit .fetch32 s.pc = true →
    decodeBytes [s.byte s.pc, s.byte (s.pc + 1#64), s.byte (s.pc + 2#64), s.byte (s.pc + 3#64)] = .ok i →
    step s = exec i { s with finishedInput := s.finishedInput.tail }

/-- R110: the transitions of the driver, for every completion predicate; the halted states have none. -/
def Obligations.DriverTransitions : Prop :=
  ∀ (finished : State → Bool) (s : State),
    (∀ a : Word, s.beginRun a = { s with pc := a, runState := .running }) ∧
    (s.runState = .haltedOk ∨ s.runState = .haltedError → ∀ t, driverStepUnder finished s ≠ .next t) ∧
    (s.runState = .running → s.cpuError = .none → finished s = true →
      driverStepUnder finished s = .next { s with runState := .haltedOk }) ∧
    (s.runState = .running → s.cpuError = .none → finished s = false →
      driverStepUnder finished s = tick s ∧
      ∀ t, driverStepUnder finished s = .next t →
        (t.cpuError = .unimplemented ∧ t.runState = .haltedError) ∨
        (t.cpuError = .none ∧ t.runState = .running)) ∧
    (s.runStatus = some 1 ↔ s.runState = .haltedError) ∧ (s.runStatus = some 0 ↔ s.runState = .haltedOk)

/-- R174: the sticky error stays with its first cause on every run, no host accessor clears it, and a `run` on
a block that holds it makes no tick and returns 1. -/
def Obligations.StickyError : Prop :=
  (∀ s t : State, Reaches s t → s.cpuError = .unimplemented →
    t.cpuError = .unimplemented ∧ t.errorCause = s.errorCause) ∧
  (∀ (s : State) (i : Fin 31) (j : Fin 32) (v : Word) (w : Word32),
    (s.hostSetX i v).getError = s.getError ∧ (s.hostSetW i w).getError = s.getError ∧
    (s.hostSetSP v).getError = s.getError ∧ (s.hostSetD j v).getError = s.getError ∧
    (s.hostSetS j w).getError = s.getError) ∧
  (∀ (finished : State → Bool) (turns : Nat) (a : Word) (s : State), s.cpuError = .unimplemented →
    run finished (turns + 1) a s = some (1, { s with pc := a, runState := .haltedError }))

/-- R197: the first tick of `run` fetches at the start address, after `finished` was evaluated once; a start
state that satisfies it gives status 0 and no tick. -/
def Obligations.FirstTick : Prop :=
  ∀ (finished : State → Bool) (turns : Nat) (a : Word) (s : State), s.cpuError = .none →
    (finished { s with pc := a, runState := .running } = true →
      run finished (turns + 1) a s = some (0, { s with pc := a, runState := .haltedOk })) ∧
    (finished { s with pc := a, runState := .running } = false → ∀ w,
      ({ s with pc := a, runState := .running } : State).readInstruction32 a = .ok w →
      driverStepUnder finished (s.beginRun a) = tickOnWord w { s with pc := a, runState := .running })

/-- R196: a second `run` sets the PC and the run state and leaves everything else; after a failed run it
returns 1 without a tick, after a successful one it goes on from the state as it stands. -/
def Obligations.SecondRun : Prop :=
  ∀ (finished : State → Bool) (turns : Nat) (a : Word) (s : State),
    s.beginRun a = { s with pc := a, runState := .running } ∧
    (s.cpuError = .unimplemented →
      run finished (turns + 1) a s = some (1, { s with pc := a, runState := .haltedError })) ∧
    (s.cpuError = .none → finished (s.beginRun a) = false →
      driverStepUnder finished (s.beginRun a) = tick { s with pc := a, runState := .running })

/-- The samples of `finished` the state holds lose nothing of R112 (log 7): for every predicate on the state
between ticks there are samples under which the machine runs as it does under the predicate. -/
def Obligations.SamplesRealiseEveryPredicate : Prop :=
  ∀ finished : State → Bool, (∀ s l, finished (s.setFinishedInput l) = finished s) →
    ∀ (turns : Nat) (s : State), ∃ l : List Bool,
      withoutSamples (Host.Core.run core turns (s.setFinishedInput l)) =
        withoutSamples (Host.Core.run (coreUnder finished) turns s)

/-! ## Reset and the invariant -/

/-- R193 with R190: the error and run state and the PC at the first tick, for every value of the open
parameters; `State.reset` is one of these states (its values are the model's: logs 1 to 3 and 5 to 7). -/
def Obligations.ResetState : Prop :=
  (∀ p : ResetParams, (State.resetWith p).pc = p.startAddress ∧ (State.resetWith p).cpuError = .none ∧
    (State.resetWith p).errorCause = .none ∧ (State.resetWith p).runState = .running) ∧
  ∃ p : ResetParams, State.reset = State.resetWith p

/-- The invariant holds at every reset state whose memory listing is canonical, `State.reset` among them. -/
def Obligations.ResetSatisfiesInv : Prop :=
  State.reset.Inv ∧ ∀ p : ResetParams, p.mem.wf = true → (State.resetWith p).Inv

/-- Every step keeps the invariant: the error state and its cause agree (R27), HALTED_ERROR goes with the
sticky error (R28), and the memory listing stays canonical. -/
def Obligations.StepKeepsInv : Prop :=
  ∀ s t : State, s.Inv → step s = .next t → t.Inv

/-- The host's accessors (R30): each setter is the update of its one register and of nothing else, a
32-bit write clearing the upper half; each getter reads its one register; and what each reads after each
writes. -/
def Obligations.HostAccessors : Prop :=
  ∀ (s : State) (i : Fin 31) (j : Fin 32) (v : Word) (w : Word32),
    s.hostSetX i v = { s with x := s.x.set i v } ∧
    s.hostSetW i w = { s with x := s.x.set i (w.setWidth 64) } ∧
    s.hostSetSP v = { s with sp := v } ∧
    s.hostSetD j v = { s with v := s.v.set j v } ∧
    s.hostSetS j w = { s with v := s.v.set j (w.setWidth 64) } ∧
    s.getX i = s.x[i] ∧ s.getW i = s.x[i].extractLsb' 0 32 ∧ s.getSP = s.sp ∧ s.getPC = s.pc ∧
    s.getD j = s.v[j] ∧ s.getS j = s.v[j].extractLsb' 0 32 ∧ s.getError = (s.cpuError, s.errorCause) ∧
    (s.hostSetX i v).getX i = v ∧ (s.hostSetX i v).getW i = v.extractLsb' 0 32 ∧
    (s.hostSetW i w).getW i = w ∧ (s.hostSetW i w).getX i = w.setWidth 64 ∧
    (∀ k, k ≠ i → (s.hostSetX i v).getX k = s.getX k ∧ (s.hostSetW i w).getX k = s.getX k) ∧
    (s.hostSetSP v).getSP = v ∧
    (s.hostSetD j v).getD j = v ∧ (s.hostSetD j v).getS j = v.extractLsb' 0 32 ∧
    (s.hostSetS j w).getS j = w ∧ (s.hostSetS j w).getD j = w.setWidth 64 ∧
    (∀ k, k ≠ j → (s.hostSetD j v).getD k = s.getD k ∧ (s.hostSetS j w).getD k = s.getD k)

/-! ## Every memory collaborator (`Mem` of R6) -/

/-- The machine of `exec`, `tick`, `step` and `run` is the machine that takes the five primitives as a
parameter, at the reference memory (log 4). -/
def Obligations.CollaboratorIsAParameter : Prop :=
  (∀ (i : Instr) (s : State), exec i s = execWith .reference i s) ∧
  (∀ (w : Word32) (s : State), tickOnWord w s = tickOnWordWith .reference w s) ∧
  (∀ s : State, tick s = tickWith .reference s) ∧
  (∀ s : State, step s = driverTurnWith .reference s.finishedNow s.dropFinishedSample) ∧
  (∀ (finished : State → Bool) (s : State),
    driverStepUnder finished s = driverStepUnderWith .reference finished s) ∧
  (∀ (finished : State → Bool) (turns : Nat) (a : Word) (s : State),
    run finished turns a s = runWith .reference finished turns a s)

/-- R42 and R99 for every collaborator: the fetch is one request at the PC; the memory stage makes the one
request its control names, at `ALUOutput`, or none; a tick that fails in decode or execute has made only its
fetch; and no instruction but a load or a store makes a data request. The state changes only by what the
primitives leave. That a request which is not accepted (R47) is the fault `memoryRequestNotAdmitted` is the
form the model gives it (log 6). -/
def Obligations.RequestsOfEveryCollaborator : Prop :=
  ∀ c : Collaborator,
  (∀ s : State, tickWith c s =
    if s.memAdmit .fetch32 s.pc then
      tickOnWordWith c (c.readInstruction32 s.mem s.pc).1
        { s with mem := (c.readInstruction32 s.mem s.pc).2 }
    else .fault (.memoryRequestNotAdmitted .fetch32 s.pc)) ∧
  (∀ (w : Word32) (s : State), (∃ e, decode w = .error e) →
    tickOnWordWith c w s = .next (s.raise .unimplementedInstruction)) ∧
  (∀ (l : Latches) (s t : State) (f : Cause), executeStage l s = .failed f t →
    finishTickWith c l s = .next (s.raise .unimplementedALUControl)) ∧
  (∀ (dest : Loc) (addr : Word) (s : State),
    memoryStageWith c .none dest addr s = .done (none, s) ∧
    memoryStageWith c .read32 dest addr s =
      (if s.memAdmit .read32 addr then
        .done (some ((c.readData32 s.mem addr).1.setWidth 64), { s with mem := (c.readData32 s.mem addr).2 })
      else .stuck (.memoryRequestNotAdmitted .read32 addr)) ∧
    memoryStageWith c .read64 dest addr s =
      (if s.memAdmit .read64 addr then
        .done (some (c.readData64 s.mem addr).1, { s with mem := (c.readData64 s.mem addr).2 })
      else .stuck (.memoryRequestNotAdmitted .read64 addr)) ∧
    memoryStageWith c .write32 dest addr s =
      (if s.memAdmit .write32 addr then
        .done (none, { s with mem := c.writeData32 s.mem addr ((s.readLoc dest).extractLsb' 0 32) })
      else .stuck (.memoryRequestNotAdmitted .write32 addr)) ∧
    memoryStageWith c .write64 dest addr s =
      (if s.memAdmit .write64 addr then
        .done (none, { s with mem := c.writeData64 s.mem addr (s.readLoc dest) })
      else .stuck (.memoryRequestNotAdmitted .write64 addr)) ∧
    ∀ ctl : MemControl, ctl.code ∈ [5#3, 6#3, 7#3] →
      memoryStageWith c ctl dest addr s = .failed .unimplementedMemoryControl s) ∧
  (∀ (i : Instr) (s : State), (∀ rt rn imm12, i ≠ .ldr32 rt rn imm12 ∧ i ≠ .ldr64 rt rn imm12 ∧
      i ≠ .str32 rt rn imm12 ∧ i ≠ .str64 rt rn imm12) →
    execWith c i s = exec i s ∧ ∀ t, execWith c i s = .next t → t.mem = s.mem)

/-- The loads and the stores on every collaborator (R152 to R155 with `Mem` open): the whole next state
where the request is accepted, with the value the primitive answers and the content it leaves, and no step
where it is not (form of `mem_admit`: log 6). -/
def Obligations.LoadsAndStoresOnEveryCollaborator : Prop :=
  ∀ (c : Collaborator) (rt rn : RegIdx) (imm12 : BitVec 12) (s : State),
    let base := if h : rn.toNat < 31 then s.x[rn.toNat] else s.sp
    let addr32 := base + (imm12.setWidth 64 <<< 2)
    let addr64 := base + (imm12.setWidth 64 <<< 3)
    let data : Word := if h : rt.toNat < 31 then s.x[rt.toNat] else 0#64
    (execWith c (.ldr32 rt rn imm12) s =
      if s.memAdmit .read32 addr32 then
        let r := c.readData32 s.mem addr32
        .next (if h : rt.toNat < 31 then
            { s with x := s.x.set rt.toNat (r.1.setWidth 64) h, mem := r.2, pc := s.pc + 4#64 }
          else { s with mem := r.2, pc := s.pc + 4#64 })
      else .fault (.memoryRequestNotAdmitted .read32 addr32)) ∧
    (execWith c (.ldr64 rt rn imm12) s =
      if s.memAdmit .read64 addr64 then
        let r := c.readData64 s.mem addr64
        .next (if h : rt.toNat < 31 then
            { s with x := s.x.set rt.toNat r.1 h, mem := r.2, pc := s.pc + 4#64 }
          else { s with mem := r.2, pc := s.pc + 4#64 })
      else .fault (.memoryRequestNotAdmitted .read64 addr64)) ∧
    (execWith c (.str32 rt rn imm12) s =
      if s.memAdmit .write32 addr32 then
        .next { s with mem := c.writeData32 s.mem addr32 (data.extractLsb' 0 32), pc := s.pc + 4#64 }
      else .fault (.memoryRequestNotAdmitted .write32 addr32)) ∧
    (execWith c (.str64 rt rn imm12) s =
      if s.memAdmit .write64 addr64 then
        .next { s with mem := c.writeData64 s.mem addr64 data, pc := s.pc + 4#64 }
      else .fault (.memoryRequestNotAdmitted .write64 addr64))
end

