-- ==== Sys2Proof/Laws/Memory.lean ====
section
/-! SUPPORT. The reference memory: a read after a write, what a write leaves alone, the canonical form is
kept by every operation, and equal bytes make equal listings. -/

namespace Sys2Proof.Machine

open Sys2Proof

/-- Every listed address is above `a`. -/
def Memory.allAbove (m : Memory) (a : Nat) : Prop := ∀ c ∈ m, a < c.1

theorem Memory.wf_nil : Memory.wf [] = true := rfl

theorem Memory.wf_cons (c : Host.Cell) (m : Memory) :
    Memory.wf (c :: m) = true ↔
      c.1 < 2 ^ 64 ∧ c.2 ≠ Memory.unlisted ∧ Memory.allAbove m c.1 ∧ Memory.wf m = true := by
  simp only [Memory.wf, Memory.allAbove, Bool.and_eq_true, decide_eq_true_eq, List.all_eq_true, and_assoc]

/-! ### Reads of single bytes -/

@[simp] theorem Memory.readByte_nil (a : Nat) : Memory.readByte [] a = Memory.unlisted := rfl

@[simp] theorem Memory.readByte_cons (c : Host.Cell) (m : Memory) (a : Nat) :
    Memory.readByte (c :: m) a = if c.1 = a then c.2 else Memory.readByte m a := rfl

theorem Memory.readByte_of_allAbove {m : Memory} {a b : Nat} (h : m.allAbove a) (hb : b ≤ a) :
    m.readByte b = Memory.unlisted := by
  induction m with
  | nil => rfl
  | cons c m ih =>
    have hc : a < c.1 := h c (by simp)
    rw [Memory.readByte_cons, if_neg (by omega), ih fun d hd => h d (by simp [hd])]

theorem Memory.readByte_consCell {m : Memory} {a : Nat} (h : m.allAbove a) (b : Byte) (x : Nat) :
    Memory.readByte (Memory.cons a b m) x = if a = x then b else m.readByte x := by
  unfold Memory.cons
  split
  · split
    · next hb hx => subst hx hb; exact Memory.readByte_of_allAbove h (Nat.le_refl _)
    · rfl
  · rfl

/-- A write puts the byte at its address and leaves every other address alone. -/
theorem Memory.readByte_writeByte {m : Memory} (h : m.wf = true) (a : Nat) (b : Byte) (x : Nat) :
    (m.writeByte a b).readByte x = if a = x then b else m.readByte x := by
  induction m with
  | nil => exact Memory.readByte_consCell (fun c hc => by simp at hc) b x
  | cons c m ih =>
    obtain ⟨-, -, habove, hm⟩ := (Memory.wf_cons c m).mp h
    unfold Memory.writeByte
    split
    · next hlt =>
      rw [Memory.readByte_cons, ih hm, Memory.readByte_cons]
      split
      · rw [if_neg (by omega)]
      · rfl
    · split
      · next heq =>
        rw [Memory.readByte_consCell (heq ▸ habove), Memory.readByte_cons]
        split
        · rfl
        · rw [if_neg (by omega)]
      · refine Memory.readByte_consCell (fun d hd => ?_) b x
        rcases List.mem_cons.mp hd with rfl | hd
        · omega
        · have := habove d hd; omega

/-! ### The canonical form is kept -/

theorem Memory.allAbove_consCell {m : Memory} {a k : Nat} {b : Byte} (ha : k < a) (h : m.allAbove k) :
    Memory.allAbove (Memory.cons a b m) k := by
  unfold Memory.cons
  split
  · exact h
  · intro c hc
    rcases List.mem_cons.mp hc with rfl | hc
    · exact ha
    · exact h c hc

theorem Memory.wf_consCell {m : Memory} {a : Nat} {b : Byte} (ha : a < 2 ^ 64) (h : m.allAbove a)
    (hm : m.wf = true) : Memory.wf (Memory.cons a b m) = true := by
  unfold Memory.cons
  split
  · exact hm
  · next hb => exact (Memory.wf_cons _ _).mpr ⟨ha, hb, h, hm⟩

theorem Memory.allAbove_writeByte {m : Memory} {a k : Nat} {b : Byte} (ha : k < a) (h : m.allAbove k) :
    Memory.allAbove (m.writeByte a b) k := by
  induction m with
  | nil => exact Memory.allAbove_consCell ha h
  | cons c m ih =>
    have hc : k < c.1 := h c (by simp)
    have hm : Memory.allAbove m k := fun d hd => h d (List.mem_cons_of_mem c hd)
    unfold Memory.writeByte
    split
    · intro d hd
      rcases List.mem_cons.mp hd with rfl | hd
      · exact hc
      · exact ih hm d hd
    · split
      · exact Memory.allAbove_consCell ha hm
      · exact Memory.allAbove_consCell ha h

theorem Memory.wf_writeByte {m : Memory} {a : Nat} (h : m.wf = true) (ha : a < 2 ^ 64) (b : Byte) :
    (m.writeByte a b).wf = true := by
  induction m with
  | nil => exact Memory.wf_consCell ha (fun c hc => by simp at hc) rfl
  | cons c m ih =>
    obtain ⟨hc, hb, habove, hm⟩ := (Memory.wf_cons c m).mp h
    unfold Memory.writeByte
    split
    · next hlt =>
      exact (Memory.wf_cons _ _).mpr ⟨hc, hb, Memory.allAbove_writeByte hlt habove, ih hm⟩
    · split
      · next heq => exact Memory.wf_consCell ha (heq ▸ habove) hm
      · refine Memory.wf_consCell ha (fun d hd => ?_) h
        rcases List.mem_cons.mp hd with rfl | hd
        · omega
        · have := habove d hd; omega

theorem Memory.wf_writeBytes {m : Memory} (h : m.wf = true) (a : Word) (bs : List Byte) :
    (m.writeBytes a bs).wf = true := by
  induction bs generalizing m a with
  | nil => exact h
  | cons b bs ih => exact ih (Memory.wf_writeByte h a.isLt b) _

theorem Memory.wf_write32 {m : Memory} (h : m.wf = true) (a : Word) (v : Word32) :
    (m.write32 a v).wf = true := Memory.wf_writeBytes h a _

theorem Memory.wf_write64 {m : Memory} (h : m.wf = true) (a : Word) (v : Word) :
    (m.write64 a v).wf = true := Memory.wf_writeBytes h a _

/-! ### Writes of several bytes -/

/-- What a run of written bytes (at most 2^64 of them) leaves at an address. -/
theorem Memory.readByte_writeBytes {m : Memory} (h : m.wf = true) (a : Word) (bs : List Byte)
    (hbs : bs.length ≤ 2 ^ 64) (x : Word) :
    (m.writeBytes a bs).readByte x.toNat =
      if h : (x - a).toNat < bs.length then bs[(x - a).toNat] else m.readByte x.toNat := by
  induction bs generalizing m a with
  | nil => simp [Memory.writeBytes]
  | cons b bs ih =>
    simp only [List.length_cons] at hbs
    rw [Memory.writeBytes, ih (Memory.wf_writeByte h a.isLt b) _ (by omega)]
    rcases Decidable.em (x = a) with rfl | hne
    · have hself : ((x - x : Word)).toNat = 0 := by simp
      have hnext : ((x - (x + 1#64) : Word)).toNat = 2 ^ 64 - 1 := by
        have : (x - (x + 1#64) : Word) = -1#64 := by grind
        rw [this]; rfl
      rw [dif_neg (by omega), Memory.readByte_writeByte h, if_pos rfl, dif_pos (by simp)]
      simp
    · have hpos : 0 < (x - a).toNat := by
        rcases Nat.eq_zero_or_pos (x - a).toNat with h0 | h0
        · exact absurd (by have := BitVec.eq_of_toNat_eq (x := x - a) (y := 0#64) (by simpa using h0); grind) hne
        · exact h0
      have hstep : (x - (a + 1#64)).toNat = (x - a).toNat - 1 := by
        have := (x - a).isLt
        have : x - (a + 1#64) = (x - a) - 1#64 := by grind
        rw [this, BitVec.toNat_sub]
        simp only [BitVec.toNat_ofNat]
        omega
      have hread : (m.writeByte a.toNat b).readByte x.toNat = m.readByte x.toNat := by
        rw [Memory.readByte_writeByte h, if_neg fun he => hne (BitVec.eq_of_toNat_eq he.symm)]
      rw [hread, hstep]
      by_cases hin : (x - a).toNat - 1 < bs.length
      · rw [dif_pos hin, dif_pos (by rw [List.length_cons]; omega)]
        obtain ⟨k, hk⟩ : ∃ k, (x - a).toNat = k + 1 := ⟨(x - a).toNat - 1, by omega⟩
        simp [hk]
      · rw [dif_neg hin, dif_neg (by rw [List.length_cons]; omega)]

/-- Bytes outside the ones written are left alone. -/
theorem Memory.readByte_writeBytes_outside {m : Memory} (h : m.wf = true) (a : Word) (bs : List Byte)
    (hbs : bs.length ≤ 2 ^ 64) (x : Word) (hx : bs.length ≤ (x - a).toNat) :
    (m.writeBytes a bs).readByte x.toNat = m.readByte x.toNat := by
  rw [Memory.readByte_writeBytes h a bs hbs, dif_neg (by omega)]

/-! ### Canonical listings are determined by their bytes -/

theorem Memory.eq_of_readByte_eq {m m' : Memory} (h : m.wf = true) (h' : m'.wf = true)
    (hb : ∀ a, m.readByte a = m'.readByte a) : m = m' := by
  induction m generalizing m' with
  | nil =>
    cases m' with
    | nil => rfl
    | cons c m' =>
      obtain ⟨-, hne, -, -⟩ := (Memory.wf_cons c m').mp h'
      exact absurd (by simpa using (hb c.1).symm) hne
  | cons c m ih =>
    obtain ⟨-, hne, habove, hm⟩ := (Memory.wf_cons c m).mp h
    cases m' with
    | nil => exact absurd (by simpa using hb c.1) hne
    | cons d m' =>
      obtain ⟨-, hne', habove', hm'⟩ := (Memory.wf_cons d m').mp h'
      have hcd : c.1 = d.1 := by
        rcases Nat.lt_trichotomy c.1 d.1 with hlt | heq | hgt
        · have h1 := hb c.1
          rw [Memory.readByte_cons, if_pos rfl, Memory.readByte_cons, if_neg (by omega),
            Memory.readByte_of_allAbove habove' (by omega)] at h1
          exact absurd h1 hne
        · exact heq
        · have h1 := hb d.1
          rw [Memory.readByte_cons, if_neg (by omega), Memory.readByte_cons, if_pos rfl,
            Memory.readByte_of_allAbove habove (by omega)] at h1
          exact absurd h1.symm hne'
      have hval : c.2 = d.2 := by
        have h1 := hb c.1
        rwa [Memory.readByte_cons, if_pos rfl, Memory.readByte_cons, if_pos hcd.symm] at h1
      have htail : m = m' := by
        refine ih hm hm' fun a => ?_
        by_cases ha : c.1 = a
        · rw [Memory.readByte_of_allAbove habove (by omega), Memory.readByte_of_allAbove habove' (by omega)]
        · have h1 := hb a
          rwa [Memory.readByte_cons, if_neg ha, Memory.readByte_cons, if_neg (by omega)] at h1
      rw [htail, show c = d from Prod.ext hcd hval]

end Sys2Proof.Machine
end

