-- ==== Sys2Proof/Laws/State.lean ====
section
/-! SUPPORT. One lemma per field per update of the state, each true by `rfl`, so that no proof unfolds a
record update. -/

namespace Sys2Proof.Machine

open Sys2Proof

variable (s : State)

/-! ### setX -/

@[simp] theorem State.setX_x (i : Fin 31) (w : Word) : (s.setX i w).x = s.x.set i w := rfl
@[simp] theorem State.setX_sp (i : Fin 31) (w : Word) : (s.setX i w).sp = s.sp := rfl
@[simp] theorem State.setX_pc (i : Fin 31) (w : Word) : (s.setX i w).pc = s.pc := rfl
@[simp] theorem State.setX_v (i : Fin 31) (w : Word) : (s.setX i w).v = s.v := rfl
@[simp] theorem State.setX_n (i : Fin 31) (w : Word) : (s.setX i w).n = s.n := rfl
@[simp] theorem State.setX_z (i : Fin 31) (w : Word) : (s.setX i w).z = s.z := rfl
@[simp] theorem State.setX_vf (i : Fin 31) (w : Word) : (s.setX i w).vf = s.vf := rfl
@[simp] theorem State.setX_cpuError (i : Fin 31) (w : Word) : (s.setX i w).cpuError = s.cpuError := rfl
@[simp] theorem State.setX_errorCause (i : Fin 31) (w : Word) : (s.setX i w).errorCause = s.errorCause := rfl
@[simp] theorem State.setX_runState (i : Fin 31) (w : Word) : (s.setX i w).runState = s.runState := rfl
@[simp] theorem State.setX_mem (i : Fin 31) (w : Word) : (s.setX i w).mem = s.mem := rfl
@[simp] theorem State.setX_memRefused (i : Fin 31) (w : Word) : (s.setX i w).memRefused = s.memRefused := rfl
@[simp] theorem State.setX_finishedInput (i : Fin 31) (w : Word) : (s.setX i w).finishedInput = s.finishedInput := rfl

/-! ### setSp -/

@[simp] theorem State.setSp_x (w : Word) : (s.setSp w).x = s.x := rfl
@[simp] theorem State.setSp_sp (w : Word) : (s.setSp w).sp = w := rfl
@[simp] theorem State.setSp_pc (w : Word) : (s.setSp w).pc = s.pc := rfl
@[simp] theorem State.setSp_v (w : Word) : (s.setSp w).v = s.v := rfl
@[simp] theorem State.setSp_n (w : Word) : (s.setSp w).n = s.n := rfl
@[simp] theorem State.setSp_z (w : Word) : (s.setSp w).z = s.z := rfl
@[simp] theorem State.setSp_vf (w : Word) : (s.setSp w).vf = s.vf := rfl
@[simp] theorem State.setSp_cpuError (w : Word) : (s.setSp w).cpuError = s.cpuError := rfl
@[simp] theorem State.setSp_errorCause (w : Word) : (s.setSp w).errorCause = s.errorCause := rfl
@[simp] theorem State.setSp_runState (w : Word) : (s.setSp w).runState = s.runState := rfl
@[simp] theorem State.setSp_mem (w : Word) : (s.setSp w).mem = s.mem := rfl
@[simp] theorem State.setSp_memRefused (w : Word) : (s.setSp w).memRefused = s.memRefused := rfl
@[simp] theorem State.setSp_finishedInput (w : Word) : (s.setSp w).finishedInput = s.finishedInput := rfl

/-! ### setPc -/

@[simp] theorem State.setPc_x (w : Word) : (s.setPc w).x = s.x := rfl
@[simp] theorem State.setPc_sp (w : Word) : (s.setPc w).sp = s.sp := rfl
@[simp] theorem State.setPc_pc (w : Word) : (s.setPc w).pc = w := rfl
@[simp] theorem State.setPc_v (w : Word) : (s.setPc w).v = s.v := rfl
@[simp] theorem State.setPc_n (w : Word) : (s.setPc w).n = s.n := rfl
@[simp] theorem State.setPc_z (w : Word) : (s.setPc w).z = s.z := rfl
@[simp] theorem State.setPc_vf (w : Word) : (s.setPc w).vf = s.vf := rfl
@[simp] theorem State.setPc_cpuError (w : Word) : (s.setPc w).cpuError = s.cpuError := rfl
@[simp] theorem State.setPc_errorCause (w : Word) : (s.setPc w).errorCause = s.errorCause := rfl
@[simp] theorem State.setPc_runState (w : Word) : (s.setPc w).runState = s.runState := rfl
@[simp] theorem State.setPc_mem (w : Word) : (s.setPc w).mem = s.mem := rfl
@[simp] theorem State.setPc_memRefused (w : Word) : (s.setPc w).memRefused = s.memRefused := rfl
@[simp] theorem State.setPc_finishedInput (w : Word) : (s.setPc w).finishedInput = s.finishedInput := rfl

/-! ### setV -/

@[simp] theorem State.setV_x (i : Fin 32) (w : Word) : (s.setV i w).x = s.x := rfl
@[simp] theorem State.setV_sp (i : Fin 32) (w : Word) : (s.setV i w).sp = s.sp := rfl
@[simp] theorem State.setV_pc (i : Fin 32) (w : Word) : (s.setV i w).pc = s.pc := rfl
@[simp] theorem State.setV_v (i : Fin 32) (w : Word) : (s.setV i w).v = s.v.set i w := rfl
@[simp] theorem State.setV_n (i : Fin 32) (w : Word) : (s.setV i w).n = s.n := rfl
@[simp] theorem State.setV_z (i : Fin 32) (w : Word) : (s.setV i w).z = s.z := rfl
@[simp] theorem State.setV_vf (i : Fin 32) (w : Word) : (s.setV i w).vf = s.vf := rfl
@[simp] theorem State.setV_cpuError (i : Fin 32) (w : Word) : (s.setV i w).cpuError = s.cpuError := rfl
@[simp] theorem State.setV_errorCause (i : Fin 32) (w : Word) : (s.setV i w).errorCause = s.errorCause := rfl
@[simp] theorem State.setV_runState (i : Fin 32) (w : Word) : (s.setV i w).runState = s.runState := rfl
@[simp] theorem State.setV_mem (i : Fin 32) (w : Word) : (s.setV i w).mem = s.mem := rfl
@[simp] theorem State.setV_memRefused (i : Fin 32) (w : Word) : (s.setV i w).memRefused = s.memRefused := rfl
@[simp] theorem State.setV_finishedInput (i : Fin 32) (w : Word) : (s.setV i w).finishedInput = s.finishedInput := rfl

/-! ### setFlags -/

@[simp] theorem State.setFlags_x (n z vf : Bool) : (s.setFlags n z vf).x = s.x := rfl
@[simp] theorem State.setFlags_sp (n z vf : Bool) : (s.setFlags n z vf).sp = s.sp := rfl
@[simp] theorem State.setFlags_pc (n z vf : Bool) : (s.setFlags n z vf).pc = s.pc := rfl
@[simp] theorem State.setFlags_v (n z vf : Bool) : (s.setFlags n z vf).v = s.v := rfl
@[simp] theorem State.setFlags_n (n z vf : Bool) : (s.setFlags n z vf).n = n := rfl
@[simp] theorem State.setFlags_z (n z vf : Bool) : (s.setFlags n z vf).z = z := rfl
@[simp] theorem State.setFlags_vf (n z vf : Bool) : (s.setFlags n z vf).vf = vf := rfl
@[simp] theorem State.setFlags_cpuError (n z vf : Bool) : (s.setFlags n z vf).cpuError = s.cpuError := rfl
@[simp] theorem State.setFlags_errorCause (n z vf : Bool) : (s.setFlags n z vf).errorCause = s.errorCause := rfl
@[simp] theorem State.setFlags_runState (n z vf : Bool) : (s.setFlags n z vf).runState = s.runState := rfl
@[simp] theorem State.setFlags_mem (n z vf : Bool) : (s.setFlags n z vf).mem = s.mem := rfl
@[simp] theorem State.setFlags_memRefused (n z vf : Bool) : (s.setFlags n z vf).memRefused = s.memRefused := rfl
@[simp] theorem State.setFlags_finishedInput (n z vf : Bool) : (s.setFlags n z vf).finishedInput = s.finishedInput := rfl

/-! ### setMem -/

@[simp] theorem State.setMem_x (m : Memory) : (s.setMem m).x = s.x := rfl
@[simp] theorem State.setMem_sp (m : Memory) : (s.setMem m).sp = s.sp := rfl
@[simp] theorem State.setMem_pc (m : Memory) : (s.setMem m).pc = s.pc := rfl
@[simp] theorem State.setMem_v (m : Memory) : (s.setMem m).v = s.v := rfl
@[simp] theorem State.setMem_n (m : Memory) : (s.setMem m).n = s.n := rfl
@[simp] theorem State.setMem_z (m : Memory) : (s.setMem m).z = s.z := rfl
@[simp] theorem State.setMem_vf (m : Memory) : (s.setMem m).vf = s.vf := rfl
@[simp] theorem State.setMem_cpuError (m : Memory) : (s.setMem m).cpuError = s.cpuError := rfl
@[simp] theorem State.setMem_errorCause (m : Memory) : (s.setMem m).errorCause = s.errorCause := rfl
@[simp] theorem State.setMem_runState (m : Memory) : (s.setMem m).runState = s.runState := rfl
@[simp] theorem State.setMem_mem (m : Memory) : (s.setMem m).mem = m := rfl
@[simp] theorem State.setMem_memRefused (m : Memory) : (s.setMem m).memRefused = s.memRefused := rfl
@[simp] theorem State.setMem_finishedInput (m : Memory) : (s.setMem m).finishedInput = s.finishedInput := rfl

/-! ### setRunState -/

@[simp] theorem State.setRunState_x (r : RunState) : (s.setRunState r).x = s.x := rfl
@[simp] theorem State.setRunState_sp (r : RunState) : (s.setRunState r).sp = s.sp := rfl
@[simp] theorem State.setRunState_pc (r : RunState) : (s.setRunState r).pc = s.pc := rfl
@[simp] theorem State.setRunState_v (r : RunState) : (s.setRunState r).v = s.v := rfl
@[simp] theorem State.setRunState_n (r : RunState) : (s.setRunState r).n = s.n := rfl
@[simp] theorem State.setRunState_z (r : RunState) : (s.setRunState r).z = s.z := rfl
@[simp] theorem State.setRunState_vf (r : RunState) : (s.setRunState r).vf = s.vf := rfl
@[simp] theorem State.setRunState_cpuError (r : RunState) : (s.setRunState r).cpuError = s.cpuError := rfl
@[simp] theorem State.setRunState_errorCause (r : RunState) : (s.setRunState r).errorCause = s.errorCause := rfl
@[simp] theorem State.setRunState_runState (r : RunState) : (s.setRunState r).runState = r := rfl
@[simp] theorem State.setRunState_mem (r : RunState) : (s.setRunState r).mem = s.mem := rfl
@[simp] theorem State.setRunState_memRefused (r : RunState) : (s.setRunState r).memRefused = s.memRefused := rfl
@[simp] theorem State.setRunState_finishedInput (r : RunState) : (s.setRunState r).finishedInput = s.finishedInput := rfl

/-! ### setFinishedInput -/

@[simp] theorem State.setFinishedInput_x (l : List Bool) : (s.setFinishedInput l).x = s.x := rfl
@[simp] theorem State.setFinishedInput_sp (l : List Bool) : (s.setFinishedInput l).sp = s.sp := rfl
@[simp] theorem State.setFinishedInput_pc (l : List Bool) : (s.setFinishedInput l).pc = s.pc := rfl
@[simp] theorem State.setFinishedInput_v (l : List Bool) : (s.setFinishedInput l).v = s.v := rfl
@[simp] theorem State.setFinishedInput_n (l : List Bool) : (s.setFinishedInput l).n = s.n := rfl
@[simp] theorem State.setFinishedInput_z (l : List Bool) : (s.setFinishedInput l).z = s.z := rfl
@[simp] theorem State.setFinishedInput_vf (l : List Bool) : (s.setFinishedInput l).vf = s.vf := rfl
@[simp] theorem State.setFinishedInput_cpuError (l : List Bool) : (s.setFinishedInput l).cpuError = s.cpuError := rfl
@[simp] theorem State.setFinishedInput_errorCause (l : List Bool) : (s.setFinishedInput l).errorCause = s.errorCause := rfl
@[simp] theorem State.setFinishedInput_runState (l : List Bool) : (s.setFinishedInput l).runState = s.runState := rfl
@[simp] theorem State.setFinishedInput_mem (l : List Bool) : (s.setFinishedInput l).mem = s.mem := rfl
@[simp] theorem State.setFinishedInput_memRefused (l : List Bool) : (s.setFinishedInput l).memRefused = s.memRefused := rfl
@[simp] theorem State.setFinishedInput_finishedInput (l : List Bool) : (s.setFinishedInput l).finishedInput = l := rfl

/-! ### raise -/

@[simp] theorem State.raise_x (c : Cause) : (s.raise c).x = s.x := rfl
@[simp] theorem State.raise_sp (c : Cause) : (s.raise c).sp = s.sp := rfl
@[simp] theorem State.raise_pc (c : Cause) : (s.raise c).pc = s.pc := rfl
@[simp] theorem State.raise_v (c : Cause) : (s.raise c).v = s.v := rfl
@[simp] theorem State.raise_n (c : Cause) : (s.raise c).n = s.n := rfl
@[simp] theorem State.raise_z (c : Cause) : (s.raise c).z = s.z := rfl
@[simp] theorem State.raise_vf (c : Cause) : (s.raise c).vf = s.vf := rfl
@[simp] theorem State.raise_cpuError (c : Cause) : (s.raise c).cpuError = .unimplemented := rfl
@[simp] theorem State.raise_errorCause (c : Cause) : (s.raise c).errorCause = c.recorded := rfl
@[simp] theorem State.raise_runState (c : Cause) : (s.raise c).runState = .haltedError := rfl
@[simp] theorem State.raise_mem (c : Cause) : (s.raise c).mem = s.mem := rfl
@[simp] theorem State.raise_memRefused (c : Cause) : (s.raise c).memRefused = s.memRefused := rfl
@[simp] theorem State.raise_finishedInput (c : Cause) : (s.raise c).finishedInput = s.finishedInput := rfl

end Sys2Proof.Machine
end

