-- ==== Sys2Proof/Laws/Ops.lean ====
section
/-! SUPPORT. What each shared operation can do, said once: register reads and writes, the port, the
stages, and the rest of a tick on complete latches. -/

namespace Sys2Proof.Machine

open Sys2Proof

/-! ### Register reads and writes -/

theorem State.xOrSp_of_lt (s : State) {i : RegIdx} (h : i.toNat < 31) : s.xOrSp i = s.x[i.toNat] :=
  dif_pos h

theorem State.xOrSp_31 (s : State) : s.xOrSp 31#5 = s.sp := rfl

theorem State.xOrZr_of_lt (s : State) {i : RegIdx} (h : i.toNat < 31) : s.xOrZr i = s.x[i.toNat] :=
  dif_pos h

theorem State.xOrZr_31 (s : State) : s.xOrZr 31#5 = 0#64 := rfl

/-- An index that is not below 31 is 31. -/
theorem regIdx_eq_31 {i : RegIdx} (h : ¬ i.toNat < 31) : i = 31#5 := by
  have := i.isLt
  exact BitVec.eq_of_toNat_eq (by simp only [BitVec.toNat_ofNat]; omega)

theorem Loc.gprOrSp_ne_pc (i : RegIdx) : Loc.gprOrSp i ≠ .pc := by
  unfold Loc.gprOrSp
  split <;> exact Loc.noConfusion

theorem Loc.gprOrZr_ne_pc (i : RegIdx) : Loc.gprOrZr i ≠ .pc := by
  unfold Loc.gprOrZr
  split <;> exact Loc.noConfusion

theorem Loc.ofFpr_ne_pc (i : RegIdx) : Loc.ofFpr i ≠ .pc := Loc.noConfusion

/-- Reading the data register of a store gives what an `XorZR` read gives (R22, R14). -/
theorem State.readLoc_gprOrZr (s : State) (i : RegIdx) : s.readLoc (Loc.gprOrZr i) = s.xOrZr i := by
  unfold Loc.gprOrZr State.xOrZr
  split <;> rfl

/-- A write of one location changes no location but that one, and only registers (R22). -/
theorem State.readLoc_writeLoc (s : State) (l k : Loc) (w : Word) :
    (s.writeLoc l w).readLoc k = if k = l ∧ l ≠ .zr then w else s.readLoc k := by
  cases l <;> cases k <;> simp [State.writeLoc, State.readLoc, Fin.ext_iff, Vector.getElem_set, eq_comm]

@[simp] theorem State.writeLoc_n (s : State) (l : Loc) (w : Word) : (s.writeLoc l w).n = s.n := by
  cases l <;> rfl
@[simp] theorem State.writeLoc_z (s : State) (l : Loc) (w : Word) : (s.writeLoc l w).z = s.z := by
  cases l <;> rfl
@[simp] theorem State.writeLoc_vf (s : State) (l : Loc) (w : Word) : (s.writeLoc l w).vf = s.vf := by
  cases l <;> rfl
@[simp] theorem State.writeLoc_cpuError (s : State) (l : Loc) (w : Word) :
    (s.writeLoc l w).cpuError = s.cpuError := by cases l <;> rfl
@[simp] theorem State.writeLoc_errorCause (s : State) (l : Loc) (w : Word) :
    (s.writeLoc l w).errorCause = s.errorCause := by cases l <;> rfl
@[simp] theorem State.writeLoc_runState (s : State) (l : Loc) (w : Word) :
    (s.writeLoc l w).runState = s.runState := by cases l <;> rfl
@[simp] theorem State.writeLoc_mem (s : State) (l : Loc) (w : Word) : (s.writeLoc l w).mem = s.mem := by
  cases l <;> rfl
@[simp] theorem State.writeLoc_memRefused (s : State) (l : Loc) (w : Word) :
    (s.writeLoc l w).memRefused = s.memRefused := by cases l <;> rfl
@[simp] theorem State.writeLoc_finishedInput (s : State) (l : Loc) (w : Word) :
    (s.writeLoc l w).finishedInput = s.finishedInput := by cases l <;> rfl

theorem State.writeLoc_pc (s : State) {l : Loc} (h : l ≠ .pc) (w : Word) : (s.writeLoc l w).pc = s.pc := by
  cases l <;> first | rfl | exact absurd rfl h

/-! ### The memory port (R40, R47) -/

theorem State.request_of_admit {α : Type} {s : State} {k : RequestKind} {a : Word} {r : α}
    (h : s.memAdmit k a = true) : s.request k a r = .ok r := if_pos h

theorem State.request_of_not_admit {α : Type} {s : State} {k : RequestKind} {a : Word} {r : α}
    (h : s.memAdmit k a = false) : s.request k a r = .error (.memoryRequestNotAdmitted k a) :=
  if_neg (by simp [h])

/-- A request that answers was accepted, and answers what was asked for. -/
theorem State.request_eq_ok {α : Type} {s : State} {k : RequestKind} {a : Word} {r q : α} :
    s.request k a r = .ok q ↔ s.memAdmit k a = true ∧ q = r := by
  unfold State.request
  cases s.memAdmit k a <;> simp [eq_comm (a := q)]

@[simp] theorem State.answered_fst {α : Type} (s : State) (r : α × Memory) : (s.answered r).1 = r.1 := rfl
@[simp] theorem State.answered_snd {α : Type} (s : State) (r : α × Memory) :
    (s.answered r).2 = s.setMem r.2 := rfl
@[simp] theorem State.setMem_mem_self (s : State) : s.setMem s.mem = s := rfl

/-- The reference memory's reads leave it as it was (R45). -/
theorem State.readInstruction32With_reference (s : State) (a : Word) :
    s.readInstruction32With .reference a = s.request .fetch32 a (s.mem.read32 a, s) := rfl
theorem State.readData32With_reference (s : State) (a : Word) :
    s.readData32With .reference a = s.request .read32 a (s.mem.read32 a, s) := rfl
theorem State.readData64With_reference (s : State) (a : Word) :
    s.readData64With .reference a = s.request .read64 a (s.mem.read64 a, s) := rfl
theorem State.writeData32With_reference (s : State) (a : Word) (v : Word32) :
    s.writeData32With .reference a v = s.writeData32 a v := rfl
theorem State.writeData64With_reference (s : State) (a : Word) (v : Word) :
    s.writeData64With .reference a v = s.writeData64 a v := rfl

/-- The value of a read of the reference memory, accepted or not. -/
theorem State.readInstruction32_eq (s : State) (a : Word) :
    s.readInstruction32 a = s.request .fetch32 a (s.mem.read32 a) := by
  unfold State.readInstruction32 State.readInstruction32With State.request
  split <;> rfl
theorem State.readData32_eq (s : State) (a : Word) :
    s.readData32 a = s.request .read32 a (s.mem.read32 a) := by
  unfold State.readData32 State.readData32With State.request
  split <;> rfl
theorem State.readData64_eq (s : State) (a : Word) :
    s.readData64 a = s.request .read64 a (s.mem.read64 a) := by
  unfold State.readData64 State.readData64With State.request
  split <;> rfl

theorem State.readInstruction32_of_admit {s : State} {a : Word} (h : s.memAdmit .fetch32 a = true) :
    s.readInstruction32 a = .ok (s.mem.read32 a) :=
  (s.readInstruction32_eq a).trans (State.request_of_admit h)

theorem State.readData32_of_admit {s : State} {a : Word} (h : s.memAdmit .read32 a = true) :
    s.readData32 a = .ok (s.mem.read32 a) := (s.readData32_eq a).trans (State.request_of_admit h)

theorem State.readData64_of_admit {s : State} {a : Word} (h : s.memAdmit .read64 a = true) :
    s.readData64 a = .ok (s.mem.read64 a) := (s.readData64_eq a).trans (State.request_of_admit h)

theorem State.writeData32_of_admit {s : State} {a : Word} (h : s.memAdmit .write32 a = true) (v : Word32) :
    s.writeData32 a v = .ok (s.setMem (s.mem.write32 a v)) := State.request_of_admit h

theorem State.writeData64_of_admit {s : State} {a : Word} (h : s.memAdmit .write64 a = true) (v : Word) :
    s.writeData64 a v = .ok (s.setMem (s.mem.write64 a v)) := State.request_of_admit h

/-! ### Stages -/

theorem StageResult.andThen_eq_done {α β : Type} {r : StageResult α} {f : α → StageResult β} {b : β} :
    r.andThen f = .done b ↔ ∃ a, r = .done a ∧ f a = .done b := by
  cases r <;> simp [StageResult.andThen]

theorem StageResult.andThen_eq_failed {α β : Type} {r : StageResult α} {f : α → StageResult β} {c : Cause}
    {s : State} :
    r.andThen f = .failed c s ↔ r = .failed c s ∨ ∃ a, r = .done a ∧ f a = .failed c s := by
  cases r <;> simp [StageResult.andThen]

theorem StageResult.ofPort_eq_done {α : Type} {r : Except Fault α} {a : α} :
    StageResult.ofPort r = .done a ↔ r = .ok a := by
  cases r <;> simp [StageResult.ofPort]

theorem StageResult.ofPort_ne_failed {α : Type} {r : Except Fault α} {c : Cause} {s : State} :
    StageResult.ofPort r ≠ .failed c s := by
  cases r <;> simp [StageResult.ofPort]

/-- A next state of a tick is the state a stage completed with, or a failure recorded (R171). -/
theorem StageResult.outcome_eq_next {r : StageResult State} {t : State} :
    r.outcome = .next t ↔ r = .done t ∨ ∃ c s, r = .failed c s ∧ t = s.raise c := by
  cases r <;> simp [StageResult.outcome, eq_comm]

/-- Execute changes nothing but the flags, and those only for SUBS in the integer domain (R96 to R98). -/
theorem executeStage_done {l : Latches} {s : State} {r : Word} {t : State}
    (h : executeStage l s = .done (r, t)) :
    t = s ∨ (l.floatOpKind = .undefined ∧ l.aluControl = .subs ∧
      t = s.writeSubFlags l.operandA l.operandB) := by
  unfold executeStage at h
  cases hk : l.floatOpKind <;> cases hc : l.aluControl <;>
    simp_all [executeInt, executeFloat]

/-- Execute fails only for want of a code in its domain, and then has changed nothing (R95, R104). -/
theorem executeStage_failed {l : Latches} {s t : State} {c : Cause}
    (h : executeStage l s = .failed c t) : c = .unimplementedALUControl ∧ t = s := by
  unfold executeStage at h
  cases hk : l.floatOpKind <;> cases hc : l.aluControl <;>
    simp_all [executeInt, executeFloat]

/-- On any collaborator the memory stage changes nothing but the collaborator's content, and what it does
is one accepted request of the kind its control names, or nothing (R99, R42). -/
theorem memoryStageWith_done {c : Collaborator} {ctl : MemControl} {dest : Loc} {a : Word} {s t : State}
    {d : Option Word} (h : memoryStageWith c ctl dest a s = .done (d, t)) :
    (ctl = .none ∧ d = none ∧ t = s) ∨
      (ctl = .read32 ∧ s.memAdmit .read32 a = true ∧
        d = some ((c.readData32 s.mem a).1.zeroExtend 64) ∧ t = s.setMem (c.readData32 s.mem a).2) ∨
      (ctl = .read64 ∧ s.memAdmit .read64 a = true ∧
        d = some (c.readData64 s.mem a).1 ∧ t = s.setMem (c.readData64 s.mem a).2) ∨
      (ctl = .write32 ∧ s.memAdmit .write32 a = true ∧ d = none ∧
        t = s.setMem (c.writeData32 s.mem a ((s.readLoc dest).extractLsb' 0 32))) ∨
      (ctl = .write64 ∧ s.memAdmit .write64 a = true ∧ d = none ∧
        t = s.setMem (c.writeData64 s.mem a (s.readLoc dest))) := by
  cases ctl <;>
    simp [memoryStageWith, StageResult.andThen_eq_done, StageResult.ofPort_eq_done,
      State.readData32With, State.readData64With, State.writeData32With, State.writeData64With,
      State.request_eq_ok, State.answered] at h ⊢ <;>
    grind

/-- On the reference memory the memory stage changes nothing but memory, and that only by a store (R99). -/
theorem memoryStage_done {ctl : MemControl} {dest : Loc} {a : Word} {s t : State} {d : Option Word}
    (h : memoryStage ctl dest a s = .done (d, t)) :
    t = s ∨ (ctl = .write32 ∧ t = s.setMem (s.mem.write32 a ((s.readLoc dest).extractLsb' 0 32))) ∨
      (ctl = .write64 ∧ t = s.setMem (s.mem.write64 a (s.readLoc dest))) := by
  rcases memoryStageWith_done h with ⟨-, -, h⟩ | ⟨-, -, -, h⟩ | ⟨-, -, -, h⟩ | ⟨hc, -, -, h⟩ | ⟨hc, -, -, h⟩
  · exact .inl h
  · exact .inl h
  · exact .inl h
  · exact .inr (.inl ⟨hc, h⟩)
  · exact .inr (.inr ⟨hc, h⟩)

/-- The memory stage fails only for want of a code, and then has changed nothing (R99, R104). -/
theorem memoryStageWith_failed {m : Collaborator} {ctl : MemControl} {dest : Loc} {a : Word} {s t : State}
    {c : Cause} (h : memoryStageWith m ctl dest a s = .failed c t) :
    (∃ k, ctl = .unsupported k) ∧ c = .unimplementedMemoryControl ∧ t = s := by
  cases ctl <;>
    simp_all [memoryStageWith, StageResult.andThen_eq_failed, StageResult.ofPort_ne_failed]

/-! ### The rest of a tick -/

/-- The decoder's latches have a code of every stage's domain (R92). -/
def Latches.supported (l : Latches) : Prop :=
  (l.floatOpKind = .undefined ∧ (l.aluControl = .add ∨ l.aluControl = .sub ∨ l.aluControl = .subs) ∨
      l.floatOpKind = .float32 ∧ (l.aluControl = .add ∨ l.aluControl = .sub)) ∧
    (∀ k, l.memControl ≠ .unsupported k) ∧ ∀ k, l.wbControl ≠ .unsupported k

/-- What a tick on supported latches can do: if it answers next, every stage is done and the PC is
updated (R90, R103). -/
theorem finishTickWith_next {m : Collaborator} {l : Latches} {s t : State} (hl : l.supported)
    (h : finishTickWith m l s = .next t) :
    ∃ r s₁ d s₂ s₃, executeStage l s = .done (r, s₁) ∧
      memoryStageWith m l.memControl l.destination r s₁ = .done (d, s₂) ∧
      writeBackStage l.wbControl l.destination (committedValue l.memToReg r d) s₂ = .done s₃ ∧
      t = advancePc l.wbControl l.destination s₃ := by
  rcases StageResult.outcome_eq_next.mp h with h | ⟨c, u, h, -⟩
  · obtain ⟨⟨r, s₁⟩, he, h⟩ := StageResult.andThen_eq_done.mp h
    obtain ⟨⟨d, s₂⟩, hm, h⟩ := StageResult.andThen_eq_done.mp h
    obtain ⟨s₃, hw, h⟩ := StageResult.andThen_eq_done.mp h
    exact ⟨r, s₁, d, s₂, s₃, he, hm, hw, (StageResult.done.inj h).symm⟩
  · exfalso
    obtain ⟨hx, hm, hw⟩ := hl
    rcases StageResult.andThen_eq_failed.mp h with h | ⟨⟨r, s₁⟩, he, h⟩
    · unfold executeStage at h
      rcases hx with ⟨hk, hc | hc | hc⟩ | ⟨hk, hc | hc⟩ <;>
        simp_all [executeInt, executeFloat]
    · rcases StageResult.andThen_eq_failed.mp h with h | ⟨⟨d, s₂⟩, -, h⟩
      · obtain ⟨⟨k, hk⟩, -⟩ := memoryStageWith_failed h
        exact hm k hk
      · rcases StageResult.andThen_eq_failed.mp h with h | ⟨s₃, -, h⟩
        · cases hc : l.wbControl with
          | unsupported k => exact hw k hc
          | none => simp [hc, writeBackStage] at h
          | regWrite => simp [hc, writeBackStage] at h
        · cases h

theorem finishTick_next {l : Latches} {s t : State} (hl : l.supported) (h : finishTick l s = .next t) :
    ∃ r s₁ d s₂ s₃, executeStage l s = .done (r, s₁) ∧
      memoryStage l.memControl l.destination r s₁ = .done (d, s₂) ∧
      writeBackStage l.wbControl l.destination (committedValue l.memToReg r d) s₂ = .done s₃ ∧
      t = advancePc l.wbControl l.destination s₃ :=
  finishTickWith_next hl h

/-- Latches that make no request give the same rest of a tick on every collaborator (R42). -/
theorem finishTickWith_of_no_request (c : Collaborator) {l : Latches} (h : l.memControl = .none) (s : State) :
    finishTickWith c l s = finishTick l s := by
  simp only [finishTick, finishTickWith, memoryStageWith, h]

/-- The PC update writes the PC or nothing (R103). -/
theorem advancePc_cases (ctl : WbControl) (dest : Loc) (s : State) :
    advancePc ctl dest s = s ∨ advancePc ctl dest s = s.setPc (s.pc + 4#64) := by
  unfold advancePc
  split <;> simp

/-- A register result that is not the PC: the location is written and the PC advances. -/
theorem finishTick_latchIntResult_add (a b : Word) {dest : Loc} (h : dest ≠ .pc) (s : State) :
    finishTick (latchIntResult a b .add dest) s =
      .next ((s.writeLoc dest (a + b)).setPc (s.pc + 4#64)) := by
  simp [finishTick, finishTickWith, latchIntResult, executeStage, executeInt, memoryStageWith, StageResult.andThen,
    writeBackStage, committedValue, advancePc, h, State.writeLoc_pc s h, StageResult.outcome]

theorem finishTick_latchIntResult_sub (a b : Word) {dest : Loc} (h : dest ≠ .pc) (s : State) :
    finishTick (latchIntResult a b .sub dest) s =
      .next ((s.writeLoc dest (a - b)).setPc (s.pc + 4#64)) := by
  simp [finishTick, finishTickWith, latchIntResult, executeStage, executeInt, memoryStageWith, StageResult.andThen,
    writeBackStage, committedValue, advancePc, h, State.writeLoc_pc s h, StageResult.outcome]

/-- A taken branch puts the sum in the PC, an untaken one advances it. -/
theorem finishTick_latchBranch (a b : Word) (taken : Bool) (s : State) :
    finishTick (latchBranch a b taken) s =
      .next (s.setPc (if taken then a + b else s.pc + 4#64)) := by
  cases taken <;> rfl

end Sys2Proof.Machine
end

