-- ==== Sys2Proof/Laws/PerInstr.lean ====
section
/-! SUPPORT. A statement per instruction about its encoding: the word the formats of spec/30_encoding.md
R63 give is accepted by the instruction's opcode row (R66). -/

namespace Sys2Proof.Laws

open Sys2Proof

/-- The word of a well-formed instruction matches its row of R66. -/
def RowAccepts.Statement (i : Instr) : Prop := i.wellFormed = true → i.row.accepts (encode i) = true

/-- A row accepts a word when fixed bits agree and no excluded pair does. -/
theorem row_accepts_of {r : OpcodeRow} {w : Word32} (hf : w &&& r.mask = r.value)
    (hx : ∀ e ∈ r.excluded, w &&& e.1 ≠ e.2) : r.accepts w = true := by
  simp only [OpcodeRow.accepts, OpcodeRow.fixedBitsMatch, hf, beq_self_eq_true, Bool.true_and,
    List.all_eq_true]
  intro e he
  simp [hx e he]

theorem RowAccepts.subImm (rd rn : RegIdx) (imm12 : BitVec 12) :
    RowAccepts.Statement (.subImm rd rn imm12) := by
  refine fun _ => row_accepts_of (BitVec.eq_of_getLsbD_eq fun k hk => ?_) (by simp [Instr.row, rowSubImm])
  simp only [Instr.row, rowSubImm, encode, formatDPI, BitVec.getLsbD_and, BitVec.getLsbD_append]
  interval_cases k <;> simp

theorem RowAccepts.cmpImm (rn : RegIdx) (imm12 : BitVec 12) : RowAccepts.Statement (.cmpImm rn imm12) := by
  refine fun _ => row_accepts_of (BitVec.eq_of_getLsbD_eq fun k hk => ?_) (by simp [Instr.row, rowCmpImm])
  simp only [Instr.row, rowCmpImm, encode, formatDPI, BitVec.getLsbD_and, BitVec.getLsbD_append]
  interval_cases k <;> simp

/-- Bits 23 and 22 of a format DPR word are the shift code, so a supported one is not excluded. -/
theorem formatDPR_shift_not_excluded (sf op s : BitVec 1) {shift : ShiftType} (rm : RegIdx)
    (imm6 : BitVec 6) (rn rd : RegIdx) (h : shift.supported = true) :
    formatDPR sf op s shift.code rm imm6 rn rd &&& 0x00C00000#32 ≠ 0x00C00000#32 := by
  intro he
  have h22 := congrArg (fun w : Word32 => w.getLsbD 22) he
  have h23 := congrArg (fun w : Word32 => w.getLsbD 23) he
  simp only [formatDPR, BitVec.getLsbD_and, BitVec.getLsbD_append] at h22 h23
  cases shift <;> simp_all [ShiftType.code, ShiftType.supported]

theorem RowAccepts.addShifted (rd rn rm : RegIdx) (shift : ShiftType) (imm6 : BitVec 6) :
    RowAccepts.Statement (.addShifted rd rn rm shift imm6) := by
  refine fun h => row_accepts_of (BitVec.eq_of_getLsbD_eq fun k hk => ?_) ?_
  · simp only [Instr.row, rowAddShifted, encode, formatDPR, BitVec.getLsbD_and, BitVec.getLsbD_append]
    interval_cases k <;> simp
  · simpa [Instr.row, rowAddShifted, encode] using formatDPR_shift_not_excluded _ _ _ rm imm6 rn rd h

theorem RowAccepts.subShifted (rd rn rm : RegIdx) (shift : ShiftType) (imm6 : BitVec 6) :
    RowAccepts.Statement (.subShifted rd rn rm shift imm6) := by
  refine fun h => row_accepts_of (BitVec.eq_of_getLsbD_eq fun k hk => ?_) ?_
  · simp only [Instr.row, rowSubShifted, encode, formatDPR, BitVec.getLsbD_and, BitVec.getLsbD_append]
    interval_cases k <;> simp
  · simpa [Instr.row, rowSubShifted, encode] using formatDPR_shift_not_excluded _ _ _ rm imm6 rn rd h

theorem RowAccepts.fadd (rd rn rm : RegIdx) : RowAccepts.Statement (.fadd rd rn rm) := by
  refine fun _ => row_accepts_of (BitVec.eq_of_getLsbD_eq fun k hk => ?_) (by simp [Instr.row, rowFadd])
  simp only [Instr.row, rowFadd, encode, formatFP2, BitVec.getLsbD_and, BitVec.getLsbD_append]
  interval_cases k <;> simp

theorem RowAccepts.fsub (rd rn rm : RegIdx) : RowAccepts.Statement (.fsub rd rn rm) := by
  refine fun _ => row_accepts_of (BitVec.eq_of_getLsbD_eq fun k hk => ?_) (by simp [Instr.row, rowFsub])
  simp only [Instr.row, rowFsub, encode, formatFP2, BitVec.getLsbD_and, BitVec.getLsbD_append]
  interval_cases k <;> simp

theorem RowAccepts.ldr32 (rt rn : RegIdx) (imm12 : BitVec 12) :
    RowAccepts.Statement (.ldr32 rt rn imm12) := by
  refine fun _ => row_accepts_of (BitVec.eq_of_getLsbD_eq fun k hk => ?_) (by simp [Instr.row, rowLdr32])
  simp only [Instr.row, rowLdr32, encode, formatLSU, BitVec.getLsbD_and, BitVec.getLsbD_append]
  interval_cases k <;> simp

theorem RowAccepts.ldr64 (rt rn : RegIdx) (imm12 : BitVec 12) :
    RowAccepts.Statement (.ldr64 rt rn imm12) := by
  refine fun _ => row_accepts_of (BitVec.eq_of_getLsbD_eq fun k hk => ?_) (by simp [Instr.row, rowLdr64])
  simp only [Instr.row, rowLdr64, encode, formatLSU, BitVec.getLsbD_and, BitVec.getLsbD_append]
  interval_cases k <;> simp

theorem RowAccepts.str32 (rt rn : RegIdx) (imm12 : BitVec 12) :
    RowAccepts.Statement (.str32 rt rn imm12) := by
  refine fun _ => row_accepts_of (BitVec.eq_of_getLsbD_eq fun k hk => ?_) (by simp [Instr.row, rowStr32])
  simp only [Instr.row, rowStr32, encode, formatLSU, BitVec.getLsbD_and, BitVec.getLsbD_append]
  interval_cases k <;> simp

theorem RowAccepts.str64 (rt rn : RegIdx) (imm12 : BitVec 12) :
    RowAccepts.Statement (.str64 rt rn imm12) := by
  refine fun _ => row_accepts_of (BitVec.eq_of_getLsbD_eq fun k hk => ?_) (by simp [Instr.row, rowStr64])
  simp only [Instr.row, rowStr64, encode, formatLSU, BitVec.getLsbD_and, BitVec.getLsbD_append]
  interval_cases k <;> simp

theorem RowAccepts.b (imm26 : BitVec 26) : RowAccepts.Statement (.b imm26) := by
  refine fun _ => row_accepts_of (BitVec.eq_of_getLsbD_eq fun k hk => ?_) (by simp [Instr.row, rowB])
  simp only [Instr.row, rowB, encode, formatBI, BitVec.getLsbD_and, BitVec.getLsbD_append]
  interval_cases k <;> simp

/-- The low four bits of a format BC word are the condition code. -/
theorem formatBC_and_cond (o1 : BitVec 1) (imm19 : BitVec 19) (o0 : BitVec 1) (cond : BitVec 4) :
    formatBC o1 imm19 o0 cond &&& 0x0000000F#32 = cond.zeroExtend 32 := by
  refine BitVec.eq_of_getLsbD_eq fun k hk => ?_
  simp only [formatBC, BitVec.getLsbD_and, BitVec.getLsbD_append, BitVec.truncate_eq_setWidth,
    BitVec.getLsbD_setWidth]
  interval_cases k <;> simp

theorem RowAccepts.bCond (cond : Cond) (imm19 : BitVec 19) : RowAccepts.Statement (.bCond cond imm19) := by
  refine fun h => row_accepts_of (BitVec.eq_of_getLsbD_eq fun k hk => ?_) ?_
  · simp only [Instr.row, rowBCond, encode, formatBC, BitVec.getLsbD_and, BitVec.getLsbD_append]
    interval_cases k <;> simp
  · intro e he
    simp only [Instr.row, rowBCond, List.mem_cons, List.not_mem_nil, or_false] at he
    simp only [Instr.wellFormed] at h
    rcases he with rfl | rfl | rfl | rfl <;> simp only [encode, formatBC_and_cond] <;>
      cases cond <;> revert h <;> decide

theorem RowAccepts.ret (rn : RegIdx) : RowAccepts.Statement (.ret rn) := by
  refine fun _ => row_accepts_of (BitVec.eq_of_getLsbD_eq fun k hk => ?_) (by simp [Instr.row, rowRet])
  simp only [Instr.row, rowRet, encode, formatBR, BitVec.getLsbD_and, BitVec.getLsbD_append]
  interval_cases k <;> simp

end Sys2Proof.Laws
end

