-- ==== Sys2Proof/Laws/Step.lean ====
section
/-! SUPPORT. What one turn of the driver can do, said once (spec/40_pipeline_stages.md R110, R111). -/

namespace Sys2Proof.Machine

open Sys2Proof

@[simp] theorem State.dropFinishedSample_x (s : State) : s.dropFinishedSample.x = s.x := rfl
@[simp] theorem State.dropFinishedSample_sp (s : State) : s.dropFinishedSample.sp = s.sp := rfl
@[simp] theorem State.dropFinishedSample_pc (s : State) : s.dropFinishedSample.pc = s.pc := rfl
@[simp] theorem State.dropFinishedSample_v (s : State) : s.dropFinishedSample.v = s.v := rfl
@[simp] theorem State.dropFinishedSample_n (s : State) : s.dropFinishedSample.n = s.n := rfl
@[simp] theorem State.dropFinishedSample_z (s : State) : s.dropFinishedSample.z = s.z := rfl
@[simp] theorem State.dropFinishedSample_vf (s : State) : s.dropFinishedSample.vf = s.vf := rfl
@[simp] theorem State.dropFinishedSample_cpuError (s : State) :
    s.dropFinishedSample.cpuError = s.cpuError := rfl
@[simp] theorem State.dropFinishedSample_errorCause (s : State) :
    s.dropFinishedSample.errorCause = s.errorCause := rfl
@[simp] theorem State.dropFinishedSample_runState (s : State) :
    s.dropFinishedSample.runState = s.runState := rfl
@[simp] theorem State.dropFinishedSample_mem (s : State) : s.dropFinishedSample.mem = s.mem := rfl
@[simp] theorem State.dropFinishedSample_memRefused (s : State) :
    s.dropFinishedSample.memRefused = s.memRefused := rfl
@[simp] theorem State.dropFinishedSample_finishedInput (s : State) :
    s.dropFinishedSample.finishedInput = s.finishedInput.tail := rfl

@[simp] theorem State.dropFinishedSample_fetch (s : State) : s.dropFinishedSample.fetch = s.fetch := by
  unfold State.fetch
  rw [State.readInstruction32_eq, State.readInstruction32_eq]
  rfl

/-- A turn that answers next: the recorded error halts, or the completion signal does, or a tick ran. -/
theorem driverTurn_next {b : Bool} {s t : State} (h : driverTurn b s = .next t) :
    s.runState = .running ∧
      ((s.cpuError = .unimplemented ∧ t = s.setRunState .haltedError) ∨
        (s.cpuError = .none ∧ b = true ∧ t = s.setRunState .haltedOk) ∨
        (s.cpuError = .none ∧ b = false ∧ tick s = .next t)) := by
  unfold driverTurn driverTurnBy at h
  cases hr : s.runState <;> cases he : s.cpuError <;> cases b <;> simp_all

/-- A turn in RUNNING with no error and no completion signal is a tick (R111). -/
theorem driverTurn_tick {s : State} (hr : s.runState = .running) (he : s.cpuError = .none) :
    driverTurn false s = tick s := by
  simp [driverTurn, driverTurnBy, hr, he]

/-- The machine of `exec` is the machine on the reference memory (log 4). -/
theorem execWith_reference (i : Instr) (s : State) : execWith .reference i s = exec i s := by
  cases i <;> rfl

theorem tickOnWordWith_reference (w : Word32) (s : State) : tickOnWordWith .reference w s = tickOnWord w s := by
  unfold tickOnWordWith tickOnWord tickOnWordBy
  cases decode w <;> simp [execWith_reference]

theorem tickWith_reference (s : State) : tickWith .reference s = tick s := by
  unfold tickWith tick
  rw [show tickOnWordWith .reference = tickOnWord from funext fun w => funext (tickOnWordWith_reference w)]

/-- The tick is the rest of it on the word the fetch answers; the reference memory is not changed by the
fetch (R45, R91). -/
theorem tick_of_fetch {s : State} {w : Word32} (h : s.fetch = .ok w) : tick s = tickOnWord w s := by
  unfold State.fetch at h
  rw [State.readInstruction32_eq, State.request_eq_ok] at h
  obtain ⟨ha, rfl⟩ := h
  unfold tick State.fetchWith
  rw [State.readInstruction32With_reference, State.request_of_admit ha]
  rfl

/-- A fetch the memory does not accept leaves the tick without a step (R47). -/
theorem tick_of_fetch_error {s : State} {f : Fault} (h : s.fetch = .error f) : tick s = .fault f := by
  unfold State.fetch at h
  rw [State.readInstruction32_eq] at h
  unfold tick State.fetchWith
  rw [State.readInstruction32With_reference]
  unfold State.request at h ⊢
  split at h <;> simp_all [tickBy]

/-- A tick that answers next ran the decoded instruction, or recorded a decode failure (R105, R173). -/
theorem tick_next {s t : State} (h : tick s = .next t) :
    ∃ w, s.fetch = .ok w ∧
      ((∃ i, decode w = .ok i ∧ exec i s = .next t) ∨
        (∃ e, decode w = .error e ∧ t = s.raise .unimplementedInstruction)) := by
  cases hf : s.fetch with
  | error f => rw [tick_of_fetch_error hf] at h; cases h
  | ok w =>
    refine ⟨w, rfl, ?_⟩
    rw [tick_of_fetch hf] at h
    simp only [tickOnWord, tickOnWordBy] at h
    cases hd : decode w with
    | ok i => exact .inl ⟨i, rfl, by simpa [hd] using h⟩
    | error e => exact .inr ⟨e, rfl, by simpa [hd, eq_comm] using h⟩

/-- A fetch that answers gives the word at the PC. -/
theorem State.fetch_ok {s : State} {w : Word32} (h : s.fetch = .ok w) :
    s.memAdmit .fetch32 s.pc = true ∧ w = s.mem.read32 s.pc := by
  unfold State.fetch at h
  rwa [State.readInstruction32_eq, State.request_eq_ok] at h

end Sys2Proof.Machine
end

