-- ==== Sys2Proof/Tests/Slice0.lean ====
section
/-! SUPPORT. Tests. Expected results are those of spec/95_test_vectors.md (its section is named beside each
test), never the model's own answer. Then, for every statement of the certificates that has hypotheses, a
concrete witness that meets them. -/

namespace Sys2Proof.Tests

open Sys2Proof Sys2Proof.Machine

/-! ## WellFormed: each check refuses an ill-formed term -/

theorem test_illFormed_add_shift11 : (Instr.addShifted 0#5 0#5 0#5 .reserved 0#6).wellFormed = false := by
  decide
theorem test_illFormed_sub_shift11 : (Instr.subShifted 0#5 0#5 0#5 .reserved 0#6).wellFormed = false := by
  decide
theorem test_illFormed_bcond_cs : (Instr.bCond .cs 0#19).wellFormed = false := by decide
theorem test_illFormed_bcond_cc : (Instr.bCond .cc 0#19).wellFormed = false := by decide
theorem test_illFormed_bcond_hi : (Instr.bCond .hi 0#19).wellFormed = false := by decide
theorem test_illFormed_bcond_ls : (Instr.bCond .ls 0#19).wellFormed = false := by decide

/-! ## Decoding: words written bit by bit in the fields of R63 -/

/-- The instruction a word decodes to is this one. -/
def decodesTo (w : Word32) (i : Instr) : Bool :=
  match decode w with
  | .ok j => j == i
  | .error _ => false

/-- The word fails decode for this reason. -/
def failsWith (w : Word32) (e : DecodeError) : Bool :=
  match decode w with
  | .ok _ => false
  | .error f => f == e

-- SUB SP, SP, #16: sf op S 100010 sh imm12 Rn Rd
theorem test_decode_subImm :
    decodesTo 0b1_1_0_100010_0_000000010000_11111_11111#32 (.subImm 31#5 31#5 16#12) = true := by decide
-- CMP X1, #5
theorem test_decode_cmpImm :
    decodesTo 0b1_1_1_100010_0_000000000101_00001_11111#32 (.cmpImm 1#5 5#12) = true := by decide
-- ADD X2, X3, X4, LSL #4: sf op S 01011 shift 0 Rm imm6 Rn Rd
theorem test_decode_addShifted :
    decodesTo 0b1_0_0_01011_00_0_00100_000100_00011_00010#32 (.addShifted 2#5 3#5 4#5 .lsl 4#6) = true := by
  decide
-- SUB X2, X3, X4, ASR #1
theorem test_decode_subShifted :
    decodesTo 0b1_1_0_01011_10_0_00100_000001_00011_00010#32 (.subShifted 2#5 3#5 4#5 .asr 1#6) = true := by
  decide
-- FADD S2, S0, S1: M 0 S 11110 ftype 1 Rm opcode 10 Rn Rd
theorem test_decode_fadd :
    decodesTo 0b0_0_0_11110_00_1_00001_0010_10_00000_00010#32 (.fadd 2#5 0#5 1#5) = true := by decide
-- FSUB S3, S1, S0
theorem test_decode_fsub :
    decodesTo 0b0_0_0_11110_00_1_00000_0011_10_00001_00011#32 (.fsub 3#5 1#5 0#5) = true := by decide
-- LDR W2, [SP, #8]: size 111 V 01 opc imm12 Rn Rt
theorem test_decode_ldr32 :
    decodesTo 0b10_111_0_01_01_000000000010_11111_00010#32 (.ldr32 2#5 31#5 2#12) = true := by decide
-- LDR X3, [SP, #8]
theorem test_decode_ldr64 :
    decodesTo 0b11_111_0_01_01_000000000001_11111_00011#32 (.ldr64 3#5 31#5 1#12) = true := by decide
-- STR W1, [SP, #12]
theorem test_decode_str32 :
    decodesTo 0b10_111_0_01_00_000000000011_11111_00001#32 (.str32 1#5 31#5 3#12) = true := by decide
-- STR X1, [SP, #8]
theorem test_decode_str64 :
    decodesTo 0b11_111_0_01_00_000000000001_11111_00001#32 (.str64 1#5 31#5 1#12) = true := by decide
-- B with imm26 = -2: op 00101 imm26
theorem test_decode_b :
    decodesTo 0b0_00101_11111111111111111111111110#32 (.b 0x3FFFFFE#26) = true := by decide
-- B.NE with imm19 = -3: 0101010 o1 imm19 o0 cond
theorem test_decode_bCond :
    decodesTo 0b0101010_0_1111111111111111101_0_0001#32 (.bCond .ne 0x7FFFD#19) = true := by decide
-- RET X5: 1101011 opc op2 op3 Rn op4
theorem test_decode_ret :
    decodesTo 0b1101011_0010_11111_000000_00101_00000#32 (.ret 5#5) = true := by decide

-- Section 2.1: words that fail.
theorem test_fails_zero_word : failsWith 0x00000000#32 .noGroup = true := by decide
theorem test_fails_sub_shifted_immediate : failsWith 0xD1400421#32 .shiftedImmediate = true := by decide
theorem test_fails_cmp_shifted_immediate : failsWith 0xF140043F#32 .shiftedImmediate = true := by decide
theorem test_fails_subs_rd0 : failsWith 0xF1000420#32 (.unmatched .dpImmediate) = true := by decide
theorem test_fails_shift11 : failsWith 0x8BC40462#32 .reservedShift = true := by decide
theorem test_fails_fadd_double : failsWith 0x1E612802#32 (.unmatched .scalarFp) = true := by decide
theorem test_fails_ldr_post_index : failsWith 0xB8404420#32 (.unmatched .loadStore) = true := by decide
theorem test_fails_bcs : failsWith 0x54000042#32 (.carryCondition .cs) = true := by decide
theorem test_fails_nop : failsWith 0xD503201F#32 (.unmatched .branch) = true := by decide

theorem test_table_word_ret : decodeTableWord 32 0xD65F03C0 = some (.ret 30#5) := by decide
theorem test_opcodeRows_count : opcodeRows.length = 13 := by decide

/-! ## One step per test -/

/-- The step of the state with a word at its PC answers next, and the next state has a property. -/
def stepGives (w : Nat) (s : State) (p : State → Bool) : Bool :=
  match step (s.withFetchWord 32 w) with
  | .next t => p t
  | .fault _ => false
  | .refused _ => false

/-- A machine about to run at 0x1000. -/
def at1000 : State := State.reset.beginRun 0x1000#64

/-- The flags are these. -/
def flagsAre (t : State) (n z vf : Bool) : Bool := t.n == n && t.z == z && t.vf == vf

-- Section 1.2: SUB SP, SP, #16.
theorem test_subImm_sp : stepGives 0xD10043FF (at1000.setSp 0x8000#64)
    (fun t => t.sp == 0x7FF0#64 && t.pc == 0x1004#64) = true := by decide
-- Section 2.2: SUB X1, X1, #1 wraps.
theorem test_subImm_wraps : stepGives 0xD1000421 at1000
    (fun t => t.getX 1 == 0xFFFFFFFFFFFFFFFF#64 && flagsAre t false false false) = true := by decide
-- Section 2.2: CMP X1, #1 overflows at the most negative value; X1 is kept.
theorem test_cmpImm_overflow : stepGives 0xF100043F (at1000.setX 1 0x8000000000000000#64)
    (fun t => flagsAre t false false true && t.getX 1 == 0x8000000000000000#64) = true := by decide
-- Section 2.2: CMP SP, #16.
theorem test_cmpImm_sp : stepGives 0xF10043FF (at1000.setSp 16#64)
    (fun t => flagsAre t false true false && t.sp == 16#64) = true := by decide
-- Section 2.3: ADD X1, X1, X1, LSL #1 reads the old value.
theorem test_addShifted_same_register : stepGives 0x8B010421 (at1000.setX 1 5#64)
    (fun t => t.getX 1 == 15#64) = true := by decide
-- Section 2.3: ADD X2, X3, X4, ASR #63.
theorem test_addShifted_asr63 :
    stepGives 0x8B84FC62 ((at1000.setX 3 5#64).setX 4 0x8000000000000000#64)
    (fun t => t.getX 2 == 4#64) = true := by decide
-- Section 2.3: SUB X0, XZR, X1.
theorem test_subShifted_zr : stepGives 0xCB0103E0 ((at1000.setX 1 1#64).setSp 0x77#64)
    (fun t => t.getX 0 == 0xFFFFFFFFFFFFFFFF#64) = true := by decide
-- Section 2.3: SUB X2, X3, X4, ASR #1.
theorem test_subShifted_asr1 :
    stepGives 0xCB840462 ((at1000.setX 3 10#64).setX 4 0xFFFFFFFFFFFFFFFE#64)
    (fun t => t.getX 2 == 11#64) = true := by decide
-- Section 2.4: FADD S2, S0, S1, with junk above the operands and in the destination.
theorem test_fadd_upper_bits :
    stepGives 0x1E212802 (((at1000.setV 0 0x3FC00000#64).setV 1 0xFFFFFFFF40200000#64).setV 2
      0xAAAAAAAAAAAAAAAA#64)
    (fun t => t.getD 2 == 0x40800000#64 && t.getD 1 == 0xFFFFFFFF40200000#64) = true := by decide
-- Section 2.4: FSUB S31, S31, S31.
theorem test_fsub_v31 : stepGives 0x1E3F3BFF (at1000.setV 31 0x40200000#64)
    (fun t => t.getD 31 == 0#64) = true := by decide

/-- The memory of section 2.6, its first doubleword. -/
def with2000 : State :=
  (at1000.setX 1 0x2000#64).setMem (Memory.write64 [] 0x2000#64 0x8899AABBCCDDEEFF#64)

-- Section 2.6: LDR W0, [X1, #4], zero-extended.
theorem test_ldr32_zero_extends : stepGives 0xB9400420 with2000
    (fun t => t.getX 0 == 0x8899AABB#64) = true := by decide
-- Section 2.6: LDR W0, [X1] at a misaligned address.
theorem test_ldr32_misaligned : stepGives 0xB9400020 (with2000.setX 1 0x2001#64)
    (fun t => t.getX 0 == 0xBBCCDDEE#64) = true := by decide
-- Section 2.6: LDR X1, [X1].
theorem test_ldr64_base_is_destination : stepGives 0xF9400021 with2000
    (fun t => t.getX 1 == 0x8899AABBCCDDEEFF#64) = true := by decide
-- Section 2.6: LDR XZR, [X1].
theorem test_ldr64_zr : stepGives 0xF940003F with2000
    (fun t => t.x == with2000.x && t.sp == with2000.sp && t.pc == 0x1004#64) = true := by decide
-- Section 2.6: STR W5, [X1] writes four bytes.
theorem test_str32_four_bytes : stepGives 0xB9000025 (with2000.setX 5 0xA1B2C3D4E5F60718#64)
    (fun t => t.mem.read64 0x2000#64 == 0x8899AABBE5F60718#64) = true := by decide
-- Section 2.6: STR X1, [X1].
theorem test_str64_base : stepGives 0xF9000021 with2000
    (fun t => t.mem.read64 0x2000#64 == 0x2000#64) = true := by decide
-- Section 2.6: STR XZR, [X1]; the listing drops the zero bytes.
theorem test_str64_zr : stepGives 0xF900003F with2000
    (fun t => t.mem.read64 0x2000#64 == 0#64 && t.mem.wf) = true := by decide
-- Section 2.5: B backwards below address 0 wraps.
theorem test_b_wraps : stepGives 0x17FFFFFF State.reset
    (fun t => t.pc == 0xFFFFFFFFFFFFFFFC#64) = true := by decide
-- Section 2.5: B with imm26 = 0x2000000.
theorem test_b_most_negative : stepGives 0x16000000 (State.reset.beginRun 0x10000000#64)
    (fun t => t.pc == 0x08000000#64) = true := by decide
-- Section 2.5: B.LT with N = 1, taken.
theorem test_bCond_lt_taken : stepGives 0x54FFFFEB (at1000.setFlags true false false)
    (fun t => t.pc == 0x0FFC#64) = true := by decide
-- Section 2.5: B.LT with N = Vf, not taken.
theorem test_bCond_lt_not_taken : stepGives 0x54FFFFEB at1000 (fun t => t.pc == 0x1004#64) = true := by
  decide
-- Section 1.5: RET with field 0 goes to X30, not X0.
theorem test_ret_field0 : stepGives 0xD65F0000 ((at1000.setX 0 0x3000#64).setX 30 0x2000#64)
    (fun t => t.pc == 0x2000#64 && t.getX 30 == 0x2000#64) = true := by decide
-- Section 2.5: RET with field 31 goes to 0.
theorem test_ret_field31 : stepGives 0xD65F03E0 (at1000.setSp 0x99#64) (fun t => t.pc == 0#64) = true := by
  decide
-- Section 1.8: the word 0x00000000 halts with an error and changes nothing.
theorem test_unmatched_word :
    stepGives 0x00000000 at1000 (fun t => t.getError == (.unimplemented, .unimplementedInstruction) &&
      t.runState == .haltedError && t.pc == 0x1000#64 && t.x == at1000.x && t.mem == at1000.mem) = true := by
  decide
-- Section 2.7: `finished` true at the start gives status 0 with no tick.
theorem test_finished_at_start :
    (run (fun _ => true) 1 0x1000#64 State.reset).map (·.1) = some 0 := by decide
-- Section 2.7: `run` after a failure returns 1 with no tick.
theorem test_run_after_failure :
    (run (fun _ => true) 1 0x1000#64 (State.reset.raise .unimplementedInstruction)).map
      (fun r => (r.1, r.2.pc)) = some (1, 0x1000#64) := by decide

/-! ## Float patterns, section 2.4 -/

theorem test_fadd_tie_to_even : fp32Add 0x4B800000#32 0x3F800000#32 = 0x4B800000#32 := by decide
theorem test_fadd_tie_to_even_up : fp32Add 0x4B800001#32 0x3F800000#32 = 0x4B800002#32 := by decide
theorem test_fsub_past_tie : fp32Sub 0x3F800000#32 0x33000001#32 = 0x3F7FFFFF#32 := by decide
theorem test_fadd_overflow_tie : fp32Add 0x7F7FFFFF#32 0x73000000#32 = 0x7F800000#32 := by decide
theorem test_fadd_below_overflow : fp32Add 0x7F7FFFFF#32 0x72FFFFFF#32 = 0x7F7FFFFF#32 := by decide
theorem test_fsub_subnormal : fp32Sub 0x00800000#32 0x00000001#32 = 0x007FFFFF#32 := by decide
theorem test_fsub_negative_zero : fp32Sub 0x80000000#32 0x00000000#32 = 0x80000000#32 := by decide
theorem test_fsub_infinity : fp32Sub 0x3F800000#32 0x7F800000#32 = 0xFF800000#32 := by decide
theorem test_fadd_nan_is_open : addNoNan 0x7F800000#32 0xFF800000#32 = none := by decide

/-! ## Witnesses: concrete values meeting the hypotheses of the statements -/

theorem witness_DecodeEncodeRoundTrip : (Instr.bCond .nv 0x40000#19).wellFormed = true := by decide
theorem witness_EncodeDecodeRoundTrip : decode 0x8B84FC62#32 = .ok (.addShifted 2#5 3#5 4#5 .asr 63#6) := rfl
theorem witness_ListedWordsFail : decode 0xD503201F#32 = .error (.unmatched .branch) := by decide
theorem witness_HostAccessors : (0 : Fin 31) ≠ 30 ∧ (0 : Fin 32) ≠ 31 := by decide
theorem witness_TwoLevelDecodeAgreesWithRows :
    decode 0xF100003F#32 = .ok (.cmpImm 1#5 0#12) ∧ rowCmpImm ∈ opcodeRows ∧
      rowCmpImm.accepts 0xF100003F#32 = true := by decide
theorem witness_GroupByBits28To25_none : groupOf 0x06000000#32 = none := by decide
theorem witness_ImmediateOperandRanges_shifted :
    0xD1400421#32 &&& 0xFFC00000#32 = 0xD1400000#32 ∧ 0xF140043F#32 &&& 0xFFC0001F#32 = 0xF140001F#32 := by
  decide
theorem witness_ImmediateOperandRanges_bCond :
    latchBCond .nv 0x40000#19 at1000 = some (latchBranch 0x1000#64 (branchOffset19 0x40000#19) true) := rfl
theorem witness_SubImmediate :
    0xD13FFC20#32 &&& 0xFFC00000#32 = 0xD1000000#32 ∧ 0xD1400421#32 &&& 0xFFC00000#32 = 0xD1400000#32 := by
  decide
theorem witness_CmpImmediate :
    0xF13FFC3F#32 &&& 0xFFC0001F#32 = 0xF100001F#32 ∧ 0xF140043F#32 &&& 0xFFC00000#32 = 0xF1400000#32 ∧
      0xF1400420#32 &&& 0xFFC00000#32 = 0xF1400000#32 ∧
      0xF1000420#32 &&& 0xFFC00000#32 = 0xF1000000#32 ∧ (0xF1000420#32).extractLsb' 0 5 ≠ 31#5 := by decide
theorem witness_ShiftedOperand :
    0x8BC40462#32 &&& 0xFF200000#32 = 0x8B000000#32 ∧ (0x8BC40462#32).extractLsb' 22 2 = 0b11#2 ∧
      0xCBC40462#32 &&& 0xFF200000#32 = 0xCB000000#32 ∧ (0xCBC40462#32).extractLsb' 22 2 = 0b11#2 := by
  decide
theorem witness_AddShiftedRegister :
    0x8B02003F#32 &&& 0xFF200000#32 = 0x8B000000#32 ∧
      shiftOperand 0x8000000000000000#64 .asr 63#6 = some 0xFFFFFFFFFFFFFFFF#64 := by decide
theorem witness_SubShiftedRegister :
    0xCB1F0020#32 &&& 0xFF200000#32 = 0xCB000000#32 ∧ 0xEB02003F#32 &&& 0xFF200000#32 = 0xEB000000#32 ∧
      shiftOperand 3#64 .lsl 63#6 = some (1#64 <<< 63) := by
  decide
theorem witness_UndecodableFormsRaise : Cond.supported .hi = false := by decide
theorem witness_FaddSingle : 0x1E3F2BFF#32 &&& 0xFFE0FC00#32 = 0x1E202800#32 := by decide
theorem witness_FsubSingle :
    0x1E3F3BFF#32 &&& 0xFFE0FC00#32 = 0x1E203800#32 ∧ fp32Value 0x80000000#32 = .finite true 0 ∧
      fp32Value 0xFF800000#32 = .infinity true ∧ fp32Value 0x7F800001#32 = .nan := by decide
theorem witness_Fp32PatternTable :
    fp32Exponent 0x80000000#32 = 0 ∧ fp32Exponent 0x00800000#32 = 1 ∧ fp32Exponent 0x7F7FFFFF#32 = 254 ∧
      (fp32Exponent 0xFF800000#32 = 255 ∧ fp32Fraction 0xFF800000#32 = 0) ∧
      (fp32Exponent 0x7F800001#32 = 255 ∧ fp32Fraction 0x7F800001#32 ≠ 0) := by decide
theorem witness_Fp32SpecialSums_sub :
    isFp32Nan 0x3F800000#32 = false ∧ isFp32Nan 0x7F800000#32 = false ∧
      isFp32Nan (fp32Add 0x3F800000#32 (0x7F800000#32 ^^^ 0x80000000#32)) = false := by decide
theorem witness_Fp32SpecialSums_infinity :
    fp32Value 0xFF800000#32 = .infinity true ∧ fp32Value 0x7F800000#32 = .infinity (!true) ∧
      fp32Value 0x80000000#32 = .finite true 0 := by decide
theorem witness_Fp32SpecialSums_zero :
    fp32Value 0x80000000#32 = .finite true 0 ∧ fp32Value 0x00000001#32 = .finite false 1 ∧
      fp32Value 0x80000001#32 = .finite true 1 := by decide
theorem witness_Fp32SumRoundsToNearestEven_overflow :
    fp32Value 0x7F7FFFFF#32 = .finite false ((2 ^ 24 - 1) * 2 ^ 253) ∧
      fp32Value 0x73000000#32 = .finite false (2 ^ 252) ∧
      ((2 ^ 24 - 1) * 2 ^ 253 + 2 ^ 252 : Nat) = (2 ^ 25 - 1) * 2 ^ 252 := by decide
theorem witness_Fp32SumRoundsToNearestEven_tie :
    fp32Value 0x3F800000#32 = .finite false (2 ^ 149) ∧ fp32Value 0x33800000#32 = .finite false (2 ^ 125) ∧
      (2 ^ 149 + 2 ^ 125 : Nat) < (2 ^ 25 - 1) * 2 ^ 252 := by decide
theorem witness_Fp32SumRoundsToNearestEven_exact :
    fp32Value 0x00FFFFFE#32 = .finite false (2 ^ 24 - 2) ∧ fp32Value 0x00000001#32 = .finite false 1 ∧
      (2 ^ 24 - 2 + 1 : Nat) < 2 ^ 24 := by decide
theorem witness_NanResultIsSomeNan :
    isFp32Nan 0x7FC00000#32 = true ∧ isFp32Nan 0xFF800001#32 = true ∧
      fp32Value 0x7F800000#32 = .infinity false ∧ fp32Value 0xFF800000#32 = .infinity (!false) := by decide
theorem witness_Ldr32 :
    0xB97FFC20#32 &&& 0xFFC00000#32 = 0xB9400000#32 ∧ at1000.memAdmit .read32 0xFFFFFFFFFFFFFFFF#64 = true := by
  decide
theorem witness_Ldr64 :
    0xF97FFC20#32 &&& 0xFFC00000#32 = 0xF9400000#32 ∧ at1000.memAdmit .read64 0xFFFFFFFFFFFFFFFF#64 = true := by
  decide
theorem witness_Str32 :
    0xB90007FF#32 &&& 0xFFC00000#32 = 0xB9000000#32 ∧ at1000.memAdmit .write32 0xFFFFFFFFFFFFFFFF#64 = true := by
  decide
theorem witness_Str64 :
    0xF900003F#32 &&& 0xFFC00000#32 = 0xF9000000#32 ∧ at1000.memAdmit .write64 0xFFFFFFFFFFFFFFFF#64 = true := by
  decide

/-- The memory of section 2.6 refusing reads of 64 bits from 0x3000 on, and fetches, reads of 32 bits and
writes everywhere. -/
def refusing : State :=
  { with2000 with memRefused :=
      [⟨.read64, 0x3000#64, 0xFFFFFFFFFFFFFFFF#64⟩, ⟨.fetch32, 0#64, 0xFFFFFFFFFFFFFFFF#64⟩,
       ⟨.read32, 0#64, 0xFFFFFFFFFFFFFFFF#64⟩, ⟨.write32, 0#64, 0xFFFFFFFFFFFFFFFF#64⟩,
       ⟨.write64, 0#64, 0xFFFFFFFFFFFFFFFF#64⟩] }

theorem witness_StoresWriteExactlyTheirBytes :
    with2000.memoryCanonical ∧
      exec (.str32 1#5 1#5 1#12) with2000 =
        .next { with2000 with mem := with2000.mem.write32 0x2004#64 0x2000#32, pc := 0x1004#64 } ∧
      exec (.str64 31#5 1#5 0#12) with2000 =
        .next { with2000 with mem := with2000.mem.write64 0x2000#64 0#64, pc := 0x1004#64 } ∧
      inBytes 0xFFFFFFFFFFFFFFFE#64 4 1#64 ∧ ¬ inBytes 0xFFFFFFFFFFFFFFFE#64 4 2#64 :=
  ⟨rfl, rfl, rfl, by unfold inBytes; decide, by unfold inBytes; decide⟩
theorem witness_ReadsAreLittleEndian :
    with2000.memRefused = [] ∧ with2000.memAdmit .fetch32 0xFFFFFFFFFFFFFFFE#64 = true ∧
      with2000.memAdmit .read32 0xFFFFFFFFFFFFFFFE#64 = true ∧ refusing.memAdmit .read64 0x2FFF#64 = true := by
  decide
theorem witness_LoadAfterStoreReturnsValue :
    with2000.memoryCanonical ∧
      with2000.writeData32 0xFFFFFFFFFFFFFFFE#64 7#32 =
        .ok (with2000.setMem (with2000.mem.write32 0xFFFFFFFFFFFFFFFE#64 7#32)) ∧
      with2000.memAdmit .read32 0xFFFFFFFFFFFFFFFE#64 = true ∧
      with2000.writeData64 0x2000#64 9#64 = .ok (with2000.setMem (with2000.mem.write64 0x2000#64 9#64)) ∧
      with2000.memAdmit .read64 0x2000#64 = true := ⟨rfl, rfl, rfl, rfl, rfl⟩
theorem witness_StoreIsSeenByNextFetch :
    let s := with2000.setX 1 0x1000#64
    s.memoryCanonical ∧
      exec (.str32 5#5 1#5 1#12) s = .next ((s.setMem (with2000.mem.write32 0x1004#64 0#32)).setPc 0x1004#64) ∧
      s.xOrSp 1#5 + (BitVec.setWidth 64 1#12 <<< 2) = 0x1004#64 ∧
      s.memAdmit .fetch32 0x1004#64 = true := ⟨rfl, rfl, rfl, rfl⟩
theorem witness_StoreIsSeenByNextFetch_str64 :
    let s := (with2000.setX 1 0x1000#64).setX 2 0x1004#64
    s.memoryCanonical ∧
      exec (.str64 1#5 2#5 0#12) s =
        .next ((s.setMem (with2000.mem.write64 0x1004#64 0x1000#64)).setPc 0x1004#64) ∧
      s.xOrSp 2#5 + (BitVec.setWidth 64 0#12 <<< 3) = 0x1004#64 ∧
      exec (.str64 2#5 1#5 0#12) s =
        .next ((s.setMem (with2000.mem.write64 0x1000#64 0x1004#64)).setPc 0x1004#64) ∧
      s.xOrSp 1#5 + (BitVec.setWidth 64 0#12 <<< 3) = 0x1004#64 - 4#64 := ⟨rfl, rfl, rfl, rfl, rfl⟩
theorem witness_RefusedRequestLeavesNoStep :
    with2000.memRefused = [] ∧ refusing.memAdmit .read32 0x2000#64 = false ∧
      refusing.memAdmit .read64 0x2FFF#64 = true ∧ refusing.memAdmit .read64 0x3000#64 = false ∧
      refusing.memAdmit .write32 0x2000#64 = false ∧ refusing.memAdmit .write64 0x2000#64 = false ∧
      refusing.runState = .running ∧ refusing.cpuError = .none ∧ refusing.finishedNow = false ∧
      refusing.memAdmit .fetch32 refusing.pc = false := by decide
theorem witness_BranchImmediate : 0x15FFFFFF#32 &&& 0xFC000000#32 = 0x14000000#32 := by decide
theorem witness_ConditionEvaluation_inversion :
    (Cond.code .gt).extractLsb' 1 3 = (Cond.code .le).extractLsb' 1 3 ∧ (Cond.code .gt).getLsbD 0 = false ∧
      (Cond.code .le).getLsbD 0 = true ∧ Cond.le ≠ .nv ∧ at1000.condHolds .gt = some true ∧
      at1000.condHolds .le = some false := by decide
theorem witness_ConditionEvaluation_word :
    0x54000042#32 &&& 0xFF000010#32 = 0x54000000#32 ∧
      (0x54000042#32).extractLsb' 0 4 ∈ [0b0010#4, 0b0011#4, 0b1000#4, 0b1001#4] := by decide
theorem witness_ConditionEvaluation_cmp :
    exec (.cmpImm 1#5 4095#12) (at1000.setX 1 0x8000000000000FFE#64) =
      .next (((at1000.setX 1 0x8000000000000FFE#64).setFlags false false true).setPc 0x1004#64) := rfl
theorem witness_BranchConditional :
    0x547FFFEC#32 &&& 0xFF000010#32 = 0x54000000#32 ∧ at1000.condHolds .gt = some true ∧
      at1000.condHolds .lt = some false := by decide
theorem witness_ReturnFromSubroutine : 0xD65F03E0#32 &&& 0xFFFFFC1F#32 = 0xD65F0000#32 := by decide
theorem witness_PcAfterTick :
    tickOnWord 0x14000000#32 at1000 = .next (at1000.setPc 0x1000#64) ∧
      tickOnWord 0x00000000#32 at1000 = .next (at1000.raise .unimplementedInstruction) ∧
      tickOnWord 0x54000020#32 at1000 = .next (at1000.setPc 0x1004#64) ∧
      tickOnWord 0x54000041#32 at1000 = .next (at1000.setPc 0x1008#64) ∧
      tickOnWord 0xD65F03E0#32 at1000 = .next (at1000.setPc 0#64) := ⟨rfl, rfl, rfl, rfl, rfl⟩
theorem witness_OnlyRetChangesPcResidue :
    exec (.b 1#26) (at1000.setPc 0xFFFFFFFFFFFFFFFF#64) = .next (at1000.setPc 3#64) := rfl
theorem witness_FlagWriteInExecute :
    (latchCmpImm 1#5 1#12 at1000).floatOpKind = .undefined ∧ (latchCmpImm 1#5 1#12 at1000).aluControl = .subs ∧
    (latchSubImm 1#5 1#5 1#12 at1000).aluControl = .sub ∧
    executeStage (latchCmpImm 1#5 1#12 at1000) at1000 =
      .done (0xFFFFFFFFFFFFFFFF#64, at1000.setFlags true false false) ∧
    executeStage (latchSubImm 1#5 1#5 1#12 at1000) at1000 = .done (0xFFFFFFFFFFFFFFFF#64, at1000) :=
  ⟨rfl, rfl, rfl, rfl, rfl⟩
theorem witness_FlagWritersAndReaders :
    exec (.b 1#26) at1000 = .next (at1000.setPc 0x1004#64) ∧ (∀ rn imm, Instr.b 1#26 ≠ .cmpImm rn imm) ∧
      ∀ c imm, Instr.b 1#26 ≠ .bCond c imm := ⟨rfl, nofun, nofun⟩

/-- Latches with a spare code in the stage named by the argument's place. -/
def spareCodes (alu : AluControl) (mem : MemControl) (wb : WbControl) : Latches :=
  { operandA := 1#64, operandB := 2#64, destination := .sp, aluControl := alu, memControl := mem,
    wbControl := wb, memToReg := false, floatOpKind := .undefined }

theorem witness_ExecuteDomains :
    (AluControl.code (.unsupported 3)) ∉ [1#3, 2#3, 3#3] ∧ (AluControl.code .undef) ∉ [1#3, 2#3, 3#3] ∧
      (AluControl.code .subs) ∉ [1#3, 2#3] := by decide
theorem witness_FirstFailingStageEndsTick :
    executeStage (spareCodes .add (.unsupported 2) .none) at1000 = .done (3#64, at1000) ∧
      (MemControl.code (.unsupported 0)) ∈ [5#3, 6#3, 7#3] ∧
      (MemControl.code (.unsupported 2)) ∈ [5#3, 6#3, 7#3] ∧
      memoryStage .none .sp 3#64 at1000 = .done (none, at1000) ∧
      (WbControl.code (.unsupported 1)) ∈ [2#2, 3#2] :=
  ⟨rfl, by decide, by decide, rfl, by decide⟩
theorem witness_DecodedInstructionsNeverFail : decode 0xF97FFC20#32 = .ok (.ldr64 0#5 1#5 4095#12) := rfl
theorem witness_OnlyStoresChangeMemory :
    exec (.ret 31#5) at1000 = .next (at1000.setPc 0#64) ∧
      ∀ rt rn imm, Instr.ret 31#5 ≠ .str32 rt rn imm ∧ Instr.ret 31#5 ≠ .str64 rt rn imm :=
  ⟨rfl, fun _ _ _ => ⟨nofun, nofun⟩⟩
theorem witness_UnmatchedWordHalts :
    at1000.runState = .running ∧ at1000.cpuError = .none ∧ at1000.fetch = .ok 0#32 ∧
      (∀ r ∈ opcodeRows, r.accepts 0#32 = false) ∧ at1000.finishedNow = false ∧
      (fun t : State => t.pc == 0x2000#64) at1000 = false := ⟨rfl, rfl, rfl, by decide, rfl, rfl⟩
theorem witness_StepRunsDecodedInstruction :
    let s := at1000.withFetchWord 32 0xD65F03C0
    s.runState = .running ∧ s.cpuError = .none ∧ s.finishedNow = false ∧ s.memAdmit .fetch32 s.pc = true ∧
      decodeBytes [s.byte s.pc, s.byte (s.pc + 1#64), s.byte (s.pc + 2#64), s.byte (s.pc + 3#64)] =
        .ok (.ret 30#5) := ⟨rfl, rfl, rfl, rfl, rfl⟩
theorem witness_DriverTransitions :
    (at1000.setRunState .haltedOk).runState = .haltedOk ∧
      (at1000.raise .unimplementedInstruction).runState = .haltedError ∧ at1000.runState = .running ∧
      at1000.cpuError = .none ∧
      driverStepUnder (fun _ => false) at1000 = .next (at1000.raise .unimplementedInstruction) :=
  ⟨rfl, rfl, rfl, rfl, rfl⟩
theorem witness_StickyError :
    let s := (at1000.raise .unimplementedInstruction).beginRun 0x1000#64
    Reaches s (s.setRunState .haltedError) ∧ s.cpuError = .unimplemented :=
  ⟨.tail (.refl _) rfl, rfl⟩
theorem witness_FirstTick :
    State.reset.cpuError = .none ∧
      ({ State.reset with pc := 0x1000#64, runState := .running } : State).readInstruction32 0x1000#64 =
        .ok 0#32 := ⟨rfl, rfl⟩
theorem witness_SecondRun :
    (at1000.raise .unimplementedInstruction).cpuError = .unimplemented ∧
      (at1000.setRunState .haltedOk).cpuError = .none := ⟨rfl, rfl⟩
theorem witness_SamplesRealiseEveryPredicate :
    ∀ (s : State) (l : List Bool),
      (fun t : State => t.pc == 0x2000#64) (s.setFinishedInput l) =
        (fun t : State => t.pc == 0x2000#64) s := fun _ _ => rfl
theorem witness_ResetSatisfiesInv : Memory.wf with2000.mem = true := by decide
theorem witness_StepKeepsInv :
    step (State.reset.withFetchWord 32 0x14000001) =
      .next ((State.reset.withFetchWord 32 0x14000001).setPc 4#64) := rfl

/-! ## A collaborator that is not the reference memory -/

/-- A device: data reads count down from the content's length and have a side effect; fetches read 0. -/
def counting : Collaborator where
  readInstruction32 m _ := (0#32, m)
  readData32 m _ := (BitVec.ofNat 32 m.length, m.tail)
  readData64 m _ := (BitVec.ofNat 64 m.length, m.tail)
  writeData32 m a _ := (a.toNat, 1#8) :: m
  writeData64 m a _ := (a.toNat, 2#8) :: m

-- R152 with `Mem` open: the value and the content are the collaborator's
theorem test_ldr32_counting :
    execWith counting (.ldr32 2#5 1#5 0#12) (at1000.setMem [(7, 7#8), (6, 6#8)]) =
      .next (((at1000.setMem [(6, 6#8)]).setX 2 2#64).setPc 0x1004#64) := rfl
-- R154 with `Mem` open
theorem test_str32_counting :
    execWith counting (.str32 2#5 31#5 0#12) (at1000.setMem []) =
      .next ((at1000.setMem [(at1000.sp.toNat, 1#8)]).setPc 0x1004#64) := rfl
theorem witness_RequestsOfEveryCollaborator :
    at1000.memAdmit .fetch32 at1000.pc = true ∧ decode 0#32 = .error .noGroup ∧
      executeStage (spareCodes .undef .read32 .regWrite) at1000 = .failed .unimplementedALUControl at1000 ∧
      (MemControl.code (.unsupported 2)) ∈ [5#3, 6#3, 7#3] ∧
      (∀ rt rn imm12, Instr.b 1#26 ≠ .ldr32 rt rn imm12 ∧ Instr.b 1#26 ≠ .ldr64 rt rn imm12 ∧
        Instr.b 1#26 ≠ .str32 rt rn imm12 ∧ Instr.b 1#26 ≠ .str64 rt rn imm12) :=
  ⟨rfl, rfl, rfl, by decide, fun _ _ _ => ⟨nofun, nofun, nofun, nofun⟩⟩

end Sys2Proof.Tests
end

/-! # Proofs about the state: the program counter, the flags, the zero register (spec/10_state.md) -/

/-! ## What decodes is well-formed (R62, R69, R72) -/

namespace Sys2Proof

/-- Masking out all bits but a field leaves the field, in place. -/
theorem and_fieldMask_eq (w : Word32) (k n : Nat) :
    w &&& ((BitVec.allOnes n).setWidth 32 <<< k) = (w.extractLsb' k n).setWidth 32 <<< k := by
  refine BitVec.eq_of_getLsbD_eq fun j hj => ?_
  simp only [BitVec.getLsbD_and, BitVec.getLsbD_shiftLeft, BitVec.getLsbD_setWidth,
    BitVec.getLsbD_allOnes, BitVec.getLsbD_extractLsb']
  by_cases hk : j < k
  · simp [hk]
  · have hjk : k + (j - k) = j := by omega
    grind

theorem and_shiftMask_eq (w : Word32) : w &&& 0x00C00000#32 = (fieldShift w).setWidth 32 <<< 22 :=
  and_fieldMask_eq w 22 2

theorem and_condMask_eq (w : Word32) : w &&& 0x0000000F#32 = (fieldCond w).setWidth 32 := by
  simpa [fieldCond] using and_fieldMask_eq w 0 4

/-- An accepted word agrees with no excluded pair of its row (R62). -/
theorem OpcodeRow.and_ne_of_accepts {r : OpcodeRow} {w : Word32} (h : r.accepts w = true)
    {e : Word32 × Word32} (he : e ∈ r.excluded) : w &&& e.1 ≠ e.2 := by
  simp only [OpcodeRow.accepts, Bool.and_eq_true, List.all_eq_true] at h
  simpa using h.2 e he

/-- A shift code other than 11 names a supported shift type (R69). -/
theorem ShiftType.supported_ofCode {c : BitVec 2} (h : c ≠ 0b11#2) :
    (ShiftType.ofCode c).supported = true := by
  revert c; decide

/-- A condition code that needs no carry flag names a supported condition (R72). -/
theorem Cond.supported_ofCode {c : BitVec 4}
    (h : c ≠ 0x2#4 ∧ c ≠ 0x3#4 ∧ c ≠ 0x8#4 ∧ c ≠ 0x9#4) : (Cond.ofCode c).supported = true := by
  revert c; decide

/-- A word without the excluded shift pair has a supported shift field (R69). -/
theorem shift_supported_of_and_ne {w : Word32} (h : w &&& 0x00C00000#32 ≠ 0x00C00000#32) :
    (ShiftType.ofCode (fieldShift w)).supported = true := by
  refine ShiftType.supported_ofCode fun hc => h ?_
  rw [and_shiftMask_eq, hc]
  rfl

/-- A word B.cond's row accepts has a supported condition field (R72). -/
theorem cond_supported_of_accepts {w : Word32} (h : rowBCond.accepts w = true) :
    (Cond.ofCode (fieldCond w)).supported = true := by
  have field_ne : ∀ c : BitVec 4, (0x0000000F#32, c.setWidth 32) ∈ rowBCond.excluded → fieldCond w ≠ c := by
    intro c hc hw
    exact OpcodeRow.and_ne_of_accepts h hc (hw ▸ and_condMask_eq w)
  exact Cond.supported_ofCode
    ⟨field_ne _ (by decide), field_ne _ (by decide), field_ne _ (by decide), field_ne _ (by decide)⟩

theorem decodeDpImmediate_wellFormed {w : Word32} {i : Instr} (h : decodeDpImmediate w = .ok i) :
    i.wellFormed = true := by
  unfold decodeDpImmediate at h
  split_ifs at h <;> cases h <;> rfl

theorem decodeDpRegister_wellFormed {w : Word32} {i : Instr} (h : decodeDpRegister w = .ok i) :
    i.wellFormed = true := by
  unfold decodeDpRegister at h
  split_ifs at h with hadd hsub <;> cases h
  · exact shift_supported_of_and_ne (OpcodeRow.and_ne_of_accepts hadd (List.mem_singleton_self _))
  · exact shift_supported_of_and_ne (OpcodeRow.and_ne_of_accepts hsub (List.mem_singleton_self _))

theorem decodeScalarFp_wellFormed {w : Word32} {i : Instr} (h : decodeScalarFp w = .ok i) :
    i.wellFormed = true := by
  unfold decodeScalarFp at h
  split_ifs at h <;> cases h <;> rfl

theorem decodeLoadStore_wellFormed {w : Word32} {i : Instr} (h : decodeLoadStore w = .ok i) :
    i.wellFormed = true := by
  unfold decodeLoadStore at h
  split_ifs at h <;> cases h <;> rfl

theorem decodeBranch_wellFormed {w : Word32} {i : Instr} (h : decodeBranch w = .ok i) :
    i.wellFormed = true := by
  unfold decodeBranch at h
  split_ifs at h with hb hc hr <;> cases h
  · rfl
  · exact cond_supported_of_accepts hc
  · rfl

/-- The decoder answers only well-formed instructions. -/
theorem decode_wellFormed {w : Word32} {i : Instr} (h : decode w = .ok i) : i.wellFormed = true := by
  unfold decode at h
  split at h
  · cases h
  · exact decodeDpImmediate_wellFormed h
  · exact decodeDpRegister_wellFormed h
  · exact decodeScalarFp_wellFormed h
  · exact decodeLoadStore_wellFormed h
  · exact decodeBranch_wellFormed h

end Sys2Proof

/-! ## Every instruction as its latches and the rest of the tick (R92, R93) -/

namespace Sys2Proof.Machine

/-- What decode latches for an instruction; none for the terms that no word decodes to (log 14). -/
def latchInstr (i : Instr) (s : State) : Option Latches :=
  match i with
  | .subImm rd rn imm12 => some (latchSubImm rd rn imm12 s)
  | .cmpImm rn imm12 => some (latchCmpImm rn imm12 s)
  | .addShifted rd rn rm shift imm6 => latchAddShifted rd rn rm shift imm6 s
  | .subShifted rd rn rm shift imm6 => latchSubShifted rd rn rm shift imm6 s
  | .fadd rd rn rm => some (latchFadd rd rn rm s)
  | .fsub rd rn rm => some (latchFsub rd rn rm s)
  | .ldr32 rt rn imm12 => some (latchLdr32 rt rn imm12 s)
  | .ldr64 rt rn imm12 => some (latchLdr64 rt rn imm12 s)
  | .str32 rt rn imm12 => some (latchStr32 rt rn imm12 s)
  | .str64 rt rn imm12 => some (latchStr64 rt rn imm12 s)
  | .b imm26 => some (latchB imm26 s)
  | .bCond cond imm19 => latchBCond cond imm19 s
  | .ret rn => some (latchRet rn s)

/-- The meaning of every instruction is the rest of the tick on its latches. -/
theorem exec_eq_finishDecoded (i : Instr) (s : State) : exec i s = finishDecoded (latchInstr i s) s := by
  cases i <;> rfl

theorem isSome_shiftOperand (v : Word) (shift : ShiftType) (imm6 : BitVec 6) :
    (shiftOperand v shift imm6).isSome = shift.supported := by
  cases shift <;> rfl

theorem State.isSome_condHolds (s : State) (c : Cond) : (s.condHolds c).isSome = c.supported := by
  cases c <;> rfl

/-- An instruction has latches exactly if it is well-formed. -/
theorem isSome_latchInstr (i : Instr) (s : State) : (latchInstr i s).isSome = i.wellFormed := by
  cases i with
  | addShifted rd rn rm shift imm6 =>
    simp [latchInstr, latchAddShifted, isSome_shiftOperand, Instr.wellFormed]
  | subShifted rd rn rm shift imm6 =>
    simp [latchInstr, latchSubShifted, isSome_shiftOperand, Instr.wellFormed]
  | bCond c imm19 => simp [latchInstr, latchBCond, State.isSome_condHolds, Instr.wellFormed]
  | _ => rfl

/-- An operation whose result goes to a register is latched with codes of its stages' domains. -/
theorem supported_latchIntResult (a b : Word) {ctl : AluControl} (h : ctl = .add ∨ ctl = .sub) (dest : Loc) :
    (latchIntResult a b ctl dest).supported :=
  ⟨.inl ⟨rfl, h.imp_right .inl⟩, nofun, nofun⟩

theorem supported_latchFloatResult (a b : Word32) {ctl : AluControl} (h : ctl = .add ∨ ctl = .sub)
    (dest : Loc) : (latchFloatResult a b ctl dest).supported :=
  ⟨.inr ⟨rfl, h⟩, nofun, nofun⟩

theorem supported_latchLoad (base offset : Word) {ctl : MemControl} (h : ∀ k, ctl ≠ .unsupported k)
    (dest : Loc) : (latchLoad base offset ctl dest).supported :=
  ⟨.inl ⟨rfl, .inl rfl⟩, h, nofun⟩

theorem supported_latchStore (base offset : Word) {ctl : MemControl} (h : ∀ k, ctl ≠ .unsupported k)
    (src : Loc) : (latchStore base offset ctl src).supported :=
  ⟨.inl ⟨rfl, .inl rfl⟩, h, nofun⟩

theorem supported_latchBranch (base offset : Word) (taken : Bool) :
    (latchBranch base offset taken).supported :=
  ⟨.inl ⟨rfl, .inl rfl⟩, nofun, by cases taken <;> exact nofun⟩

/-- Every stage supports the codes that decode latches (R92). -/
theorem supported_of_latchInstr {i : Instr} {s : State} {l : Latches} (h : latchInstr i s = some l) :
    l.supported := by
  cases i with
  | addShifted rd rn rm shift imm6 =>
    obtain ⟨b, -, rfl⟩ := Option.map_eq_some_iff.mp h
    exact supported_latchIntResult _ _ (.inl rfl) _
  | subShifted rd rn rm shift imm6 =>
    obtain ⟨b, -, rfl⟩ := Option.map_eq_some_iff.mp h
    exact supported_latchIntResult _ _ (.inr rfl) _
  | bCond c imm19 =>
    obtain ⟨taken, -, rfl⟩ := Option.map_eq_some_iff.mp h
    exact supported_latchBranch _ _ _
  | subImm rd rn imm12 => cases h; exact supported_latchIntResult _ _ (.inr rfl) _
  | cmpImm rn imm12 => cases h; exact ⟨.inl ⟨rfl, .inr (.inr rfl)⟩, nofun, nofun⟩
  | fadd rd rn rm => cases h; exact supported_latchFloatResult _ _ (.inl rfl) _
  | fsub rd rn rm => cases h; exact supported_latchFloatResult _ _ (.inr rfl) _
  | ldr32 rt rn imm12 => cases h; exact supported_latchLoad _ _ (by simp) _
  | ldr64 rt rn imm12 => cases h; exact supported_latchLoad _ _ (by simp) _
  | str32 rt rn imm12 => cases h; exact supported_latchStore _ _ (by simp) _
  | str64 rt rn imm12 => cases h; exact supported_latchStore _ _ (by simp) _
  | b imm26 => cases h; exact supported_latchBranch _ _ _
  | ret rn => cases h; exact supported_latchBranch _ _ _

/-- Only CMP is latched with SUBS (R20). -/
theorem aluControl_ne_subs_of_latchInstr {i : Instr} {s : State} {l : Latches}
    (hi : ∀ rn imm12, i ≠ .cmpImm rn imm12) (h : latchInstr i s = some l) : l.aluControl ≠ .subs := by
  cases i with
  | cmpImm rn imm12 => exact absurd rfl (hi rn imm12)
  | addShifted rd rn rm shift imm6 => obtain ⟨b, -, rfl⟩ := Option.map_eq_some_iff.mp h; exact nofun
  | subShifted rd rn rm shift imm6 => obtain ⟨b, -, rfl⟩ := Option.map_eq_some_iff.mp h; exact nofun
  | bCond c imm19 => obtain ⟨taken, -, rfl⟩ := Option.map_eq_some_iff.mp h; exact nofun
  | _ => cases h; exact nofun

/-- Only a branch is latched with the PC as its destination (R16). -/
theorem destination_ne_pc_of_latchInstr {i : Instr} {s : State} {l : Latches} (hb : ∀ imm26, i ≠ .b imm26)
    (hc : ∀ c imm19, i ≠ .bCond c imm19) (hr : ∀ rn, i ≠ .ret rn) (h : latchInstr i s = some l) :
    l.destination ≠ .pc := by
  cases i with
  | b imm26 => exact absurd rfl (hb imm26)
  | bCond c imm19 => exact absurd rfl (hc c imm19)
  | ret rn => exact absurd rfl (hr rn)
  | addShifted rd rn rm shift imm6 =>
    obtain ⟨b, -, rfl⟩ := Option.map_eq_some_iff.mp h
    exact Loc.gprOrZr_ne_pc rd
  | subShifted rd rn rm shift imm6 =>
    obtain ⟨b, -, rfl⟩ := Option.map_eq_some_iff.mp h
    exact Loc.gprOrZr_ne_pc rd
  | subImm rd rn imm12 => cases h; exact Loc.gprOrSp_ne_pc rd
  | cmpImm rn imm12 => cases h; exact nofun
  | fadd rd rn rm => cases h; exact Loc.ofFpr_ne_pc rd
  | fsub rd rn rm => cases h; exact Loc.ofFpr_ne_pc rd
  | ldr32 rt rn imm12 => cases h; exact Loc.gprOrZr_ne_pc rt
  | ldr64 rt rn imm12 => cases h; exact Loc.gprOrZr_ne_pc rt
  | str32 rt rn imm12 => cases h; exact Loc.gprOrZr_ne_pc rt
  | str64 rt rn imm12 => cases h; exact Loc.gprOrZr_ne_pc rt

/-- Decode reads the flags for B.cond only (R20). -/
theorem latchInstr_setFlags {i : Instr} (hi : ∀ c imm19, i ≠ .bCond c imm19) (s : State) (n z vf : Bool) :
    latchInstr i (s.setFlags n z vf) = latchInstr i s := by
  cases i with
  | bCond c imm19 => exact absurd rfl (hi c imm19)
  | _ => rfl

/-- What an instruction that answers next has done: it failed decode, or the rest of the tick ran. -/
theorem exec_next {i : Instr} {s t : State} (h : exec i s = .next t) :
    (latchInstr i s = none ∧ t = s.raise .unimplementedInstruction) ∨
      ∃ l, latchInstr i s = some l ∧ finishTick l s = .next t := by
  rw [exec_eq_finishDecoded] at h
  cases hl : latchInstr i s with
  | none =>
    rw [hl] at h
    cases h
    exact .inl ⟨rfl, rfl⟩
  | some l => exact .inr ⟨l, rfl, by simpa [hl, finishDecoded] using h⟩

/-! ## The program counter after the rest of a tick (R16, R103) -/

/-- Write-back that is done wrote the destination or nothing (R103). -/
theorem writeBackStage_done {ctl : WbControl} {dest : Loc} {w : Word} {s t : State}
    (h : writeBackStage ctl dest w s = .done t) : t = s ∨ t = s.writeLoc dest w := by
  cases ctl <;> simp_all [writeBackStage]

theorem executeStage_pc {l : Latches} {s t : State} {r : Word} (h : executeStage l s = .done (r, t)) :
    t.pc = s.pc := by
  rcases executeStage_done h with rfl | ⟨-, -, rfl⟩ <;> rfl

theorem memoryStage_pc {ctl : MemControl} {dest : Loc} {a : Word} {s t : State} {d : Option Word}
    (h : memoryStage ctl dest a s = .done (d, t)) : t.pc = s.pc := by
  rcases memoryStage_done h with rfl | ⟨-, rfl⟩ | ⟨-, rfl⟩ <;> rfl

theorem writeBackStage_pc {ctl : WbControl} {dest : Loc} (hd : dest ≠ .pc) {w : Word} {s t : State}
    (h : writeBackStage ctl dest w s = .done t) : t.pc = s.pc := by
  rcases writeBackStage_done h with rfl | rfl
  · rfl
  · exact State.writeLoc_pc s hd w

theorem advancePc_pc (ctl : WbControl) {dest : Loc} (hd : dest ≠ .pc) (s : State) :
    (advancePc ctl dest s).pc = s.pc + 4#64 := by
  simp [advancePc, hd]

/-- Latches whose destination is not the PC advance it by 4 (R16). -/
theorem finishTick_pc {l : Latches} {s t : State} (hl : l.supported) (hd : l.destination ≠ .pc)
    (h : finishTick l s = .next t) : t.pc = s.pc + 4#64 := by
  obtain ⟨r, s₁, d, s₂, s₃, he, hm, hw, rfl⟩ := finishTick_next hl h
  rw [advancePc_pc _ hd, writeBackStage_pc hd hw, memoryStage_pc hm, executeStage_pc he]

/-- A well-formed instruction that is no branch advances the PC by 4 (R16). -/
theorem exec_pc_of_not_branch {i : Instr} {s t : State} (hwf : i.wellFormed = true)
    (hb : ∀ imm26, i ≠ .b imm26) (hc : ∀ c imm19, i ≠ .bCond c imm19) (hr : ∀ rn, i ≠ .ret rn)
    (h : exec i s = .next t) : t.pc = s.pc + 4#64 := by
  rcases exec_next h with ⟨hnone, -⟩ | ⟨l, hl, ht⟩
  · simp [← isSome_latchInstr i s, hnone] at hwf
  · exact finishTick_pc (supported_of_latchInstr hl) (destination_ne_pc_of_latchInstr hb hc hr hl) ht

/-! ## The branches (R161 to R164) -/

theorem exec_b (imm26 : BitVec 26) (s : State) :
    exec (.b imm26) s = .next (s.setPc (s.pc + branchOffset26 imm26)) :=
  finishTick_latchBranch _ _ true s

theorem exec_bCond {c : Cond} (imm19 : BitVec 19) {s : State} {taken : Bool} (h : s.condHolds c = some taken) :
    exec (.bCond c imm19) s =
      .next (s.setPc (if taken then s.pc + branchOffset19 imm19 else s.pc + 4#64)) := by
  rw [exec_eq_finishDecoded, latchInstr, latchBCond, h]
  exact finishTick_latchBranch _ _ taken s

theorem exec_ret (rn : RegIdx) (s : State) : exec (.ret rn) s = .next (s.setPc (s.retTarget rn)) :=
  (finishTick_latchBranch (s.retTarget rn) 0#64 true s).trans (by simp)

/-- Settles O33: by what the word decodes to; a branch by its equation, any other instruction by the rest
of the tick on latches whose destination is not the PC. -/
theorem pcAfterTick : Obligations.PcAfterTick := by
  intro w s t h
  unfold tickOnWord tickOnWordBy at h
  cases hd : decode w with
  | error e =>
    rw [hd] at h
    cases h
    rfl
  | ok i =>
    have hwf := decode_wellFormed hd
    rw [hd] at h
    cases i with
    | b imm26 =>
      cases h.symm.trans (exec_b imm26 s)
      rfl
    | ret rn =>
      cases h.symm.trans (exec_ret rn s)
      rfl
    | bCond c imm19 =>
      constructor <;> intro hc
      all_goals
        cases h.symm.trans (exec_bCond imm19 hc)
        rfl
    | _ => exact exec_pc_of_not_branch hwf nofun nofun nofun h

/-! ## The flags through the rest of a tick (R20, R97) -/

/-- A stage result with its value and its failing state mapped. -/
def StageResult.map {α β : Type} (f : α → β) (g : State → State) : StageResult α → StageResult β
  | .done a => .done (f a)
  | .failed c s => .failed c (g s)
  | .stuck e => .stuck e

/-- An outcome with its next state mapped. -/
def mapNext (g : State → State) : Host.Outcome State Fault Refusal → Host.Outcome State Fault Refusal
  | .next s => .next (g s)
  | .fault f => .fault f
  | .refused r => .refused r

/-- Stages that each carry a change of the state through carry it through one after the other. -/
theorem StageResult.andThen_map {α β α' β' : Type} {f : α → α'} {f' : β → β'} {g : State → State}
    {next : α → StageResult β} {next' : α' → StageResult β'} (h : ∀ a, next' (f a) = (next a).map f' g)
    (r : StageResult α) : (r.map f g).andThen next' = (r.andThen next).map f' g := by
  cases r with
  | done a => exact h a
  | failed c s => rfl
  | stuck e => rfl

section Flags

variable (n z vf : Bool)

/-- The execute stage without SUBS carries the flags through. -/
theorem executeStage_setFlags {l : Latches} (h : l.aluControl ≠ .subs) (s : State) :
    executeStage l (s.setFlags n z vf) =
      (executeStage l s).map (Prod.map id (·.setFlags n z vf)) (·.setFlags n z vf) := by
  unfold executeStage
  cases l.floatOpKind with
  | float32 => cases l.aluControl <;> rfl
  | undefined =>
    cases hc : l.aluControl with
    | subs => exact absurd hc h
    | _ => rfl

@[simp] theorem State.memAdmit_setFlags (s : State) (k : RequestKind) (a : Word) :
    (s.setFlags n z vf).memAdmit k a = s.memAdmit k a := rfl

@[simp] theorem State.readLoc_setFlags (s : State) (l : Loc) : (s.setFlags n z vf).readLoc l = s.readLoc l := by
  cases l <;> rfl

/-- A request is accepted whatever the flags hold, so what follows it carries them through if its answer
does. -/
theorem request_andThen_setFlags {α α' β β' : Type} {r : α} {r' : α'} {next : α → StageResult β}
    {next' : α' → StageResult β'} {f : β → β'} {s : State} {k : RequestKind} {a : Word}
    (h : next' r' = (next r).map f (·.setFlags n z vf)) :
    (StageResult.ofPort ((s.setFlags n z vf).request k a r')).andThen next' =
      ((StageResult.ofPort (s.request k a r)).andThen next).map f (·.setFlags n z vf) := by
  unfold State.request
  rw [State.memAdmit_setFlags]
  split
  · exact h
  · rfl

/-- The memory stage carries the flags through. -/
theorem memoryStageWith_setFlags (m : Collaborator) (ctl : MemControl) (dest : Loc) (a : Word) (s : State) :
    memoryStageWith m ctl dest a (s.setFlags n z vf) =
      (memoryStageWith m ctl dest a s).map (Prod.map id (·.setFlags n z vf)) (·.setFlags n z vf) := by
  unfold memoryStageWith
  rw [State.readLoc_setFlags]
  cases ctl with
  | none => rfl
  | unsupported k => rfl
  | _ => exact request_andThen_setFlags n z vf rfl

/-- The write-back stage carries the flags through. -/
theorem writeBackStage_setFlags (ctl : WbControl) (dest : Loc) (w : Word) (s : State) :
    writeBackStage ctl dest w (s.setFlags n z vf) =
      (writeBackStage ctl dest w s).map (·.setFlags n z vf) (·.setFlags n z vf) := by
  cases ctl with
  | none => rfl
  | unsupported k => rfl
  | regWrite => cases dest <;> rfl

/-- The PC update carries the flags through. -/
theorem advancePc_setFlags (ctl : WbControl) (dest : Loc) (s : State) :
    advancePc ctl dest (s.setFlags n z vf) = (advancePc ctl dest s).setFlags n z vf := by
  unfold advancePc
  split <;> rfl

/-- The outcome of a tick with its next state's flags set is that of the result with its states' flags set. -/
theorem StageResult.outcome_map_setFlags (r : StageResult State) :
    (r.map (·.setFlags n z vf) (·.setFlags n z vf)).outcome = mapNext (·.setFlags n z vf) r.outcome := by
  cases r <;> rfl

/-- Without SUBS the rest of a tick carries the flags through: it neither reads nor writes them (R20). -/
theorem finishTick_setFlags {l : Latches} (h : l.aluControl ≠ .subs) (s : State) :
    finishTick l (s.setFlags n z vf) = mapNext (·.setFlags n z vf) (finishTick l s) := by
  unfold finishTick finishTickWith
  rw [executeStage_setFlags n z vf h, ← StageResult.outcome_map_setFlags]
  refine congrArg StageResult.outcome (StageResult.andThen_map (fun e => ?_) _)
  refine (congrArg (StageResult.andThen · _) (memoryStageWith_setFlags ..)).trans
    (StageResult.andThen_map (fun m => ?_) _)
  refine (congrArg (StageResult.andThen · _) (writeBackStage_setFlags ..)).trans
    (StageResult.andThen_map (fun t => ?_) _)
  exact congrArg StageResult.done (advancePc_setFlags ..)

/-- An instruction other than CMP and B.cond carries the flags through. -/
theorem exec_setFlags {i : Instr} (hcmp : ∀ rn imm12, i ≠ .cmpImm rn imm12)
    (hcond : ∀ c imm19, i ≠ .bCond c imm19) (s : State) :
    exec i (s.setFlags n z vf) = mapNext (·.setFlags n z vf) (exec i s) := by
  rw [exec_eq_finishDecoded, exec_eq_finishDecoded, latchInstr_setFlags hcond]
  cases hl : latchInstr i s with
  | none => rfl
  | some l => exact finishTick_setFlags n z vf (aluControl_ne_subs_of_latchInstr hcmp hl) s

@[simp] theorem withoutFlags_mapNext_setFlags (o : Host.Outcome State Fault Refusal) :
    withoutFlags (mapNext (·.setFlags n z vf) o) = withoutFlags o := by
  cases o <;> rfl

/-- CMP (R122): the flags of the difference, and the PC. -/
theorem exec_cmpImm (rn : RegIdx) (imm12 : BitVec 12) (s : State) :
    exec (.cmpImm rn imm12) s =
      .next ((s.writeSubFlags (s.xOrSp rn) (immOperand imm12)).setPc (s.pc + 4#64)) := rfl

/-- CMP overwrites all three flags and reads none. -/
theorem exec_cmpImm_setFlags (rn : RegIdx) (imm12 : BitVec 12) (s : State) :
    exec (.cmpImm rn imm12) (s.setFlags n z vf) = exec (.cmpImm rn imm12) s := by
  rw [exec_cmpImm, exec_cmpImm]
  rfl

end Flags

/-- Without SUBS the rest of a tick leaves the flags. -/
theorem finishTick_flags {l : Latches} {s t : State} (hl : l.supported) (hc : l.aluControl ≠ .subs)
    (h : finishTick l s = .next t) : t.n = s.n ∧ t.z = s.z ∧ t.vf = s.vf := by
  obtain ⟨r, s₁, d, s₂, s₃, he, hm, hw, rfl⟩ := finishTick_next hl h
  have h₁ : s₁ = s := (executeStage_done he).resolve_right fun ⟨_, hsubs, _⟩ => hc hsubs
  have h₂ : s₂.n = s₁.n ∧ s₂.z = s₁.z ∧ s₂.vf = s₁.vf := by
    rcases memoryStage_done hm with rfl | ⟨-, rfl⟩ | ⟨-, rfl⟩ <;> simp
  have h₃ : s₃.n = s₂.n ∧ s₃.z = s₂.z ∧ s₃.vf = s₂.vf := by
    rcases writeBackStage_done hw with rfl | rfl <;> simp
  rcases advancePc_cases l.wbControl l.destination s₃ with h₄ | h₄ <;> simp [h₄, h₃, h₂, h₁]

/-- An instruction other than CMP leaves the flags (R20). -/
theorem exec_flags {i : Instr} {s t : State} (hcmp : ∀ rn imm12, i ≠ .cmpImm rn imm12)
    (h : exec i s = .next t) : t.n = s.n ∧ t.z = s.z ∧ t.vf = s.vf := by
  rcases exec_next h with ⟨-, rfl⟩ | ⟨l, hl, ht⟩
  · simp
  · exact finishTick_flags (supported_of_latchInstr hl) (aluControl_ne_subs_of_latchInstr hcmp hl) ht

/-- Settles O36: stage by stage, latches without SUBS leave the flags and carry any others through; CMP is
the one instruction latched with SUBS, and its equation reads no flag. -/
theorem flagWritersAndReaders : Obligations.FlagWritersAndReaders := by
  refine ⟨fun i s t hcmp h => exec_flags hcmp h, fun i s n z vf hcond => ?_,
    fun rn imm12 s n z vf => exec_cmpImm_setFlags n z vf rn imm12 s⟩
  by_cases hcmp : ∀ rn imm12, i ≠ .cmpImm rn imm12
  · rw [exec_setFlags n z vf hcmp hcond, withoutFlags_mapNext_setFlags]
  · push Not at hcmp
    obtain ⟨rn, imm12, rfl⟩ := hcmp
    rw [exec_cmpImm_setFlags]

/-! ## The zero register (R12, R14) -/

theorem State.readLoc_zr (s : State) : s.readLoc .zr = 0#64 := rfl

theorem State.writeLoc_zr (s : State) (w : Word) : s.writeLoc .zr w = s := rfl

theorem Loc.gprOrZr_31 : Loc.gprOrZr 31#5 = .zr := rfl

/-- Settles O37, from the equations of the register reads and writes at the zero register. -/
theorem zeroRegister : Obligations.ZeroRegister := fun s w =>
  ⟨s.readLoc_zr, s.writeLoc_zr w, s.xOrZr_31, Loc.gprOrZr_31⟩

end Sys2Proof.Machine

/-! # Proofs about the encoding: groups, opcode rows, immediates (spec/30_encoding.md) -/

/-! ## The group of a word (R61) -/

namespace Sys2Proof

/-- A word with a given code in bits 28 to 25. -/
def wordOfGroupCode (c : BitVec 4) : Word32 := c.setWidth 32 <<< 25

theorem fieldGroup_wordOfGroupCode (c : BitVec 4) : fieldGroup (wordOfGroupCode c) = c := by
  revert c; decide

/-- The group depends on bits 28 to 25 alone. -/
theorem groupOf_congr {w w' : Word32} (h : fieldGroup w = fieldGroup w') : groupOf w = groupOf w' := by
  unfold groupOf
  rw [h]

/-- A table of codes that is right on one word of each code is right on every word. -/
theorem groupOf_iff {o : Option Group} (P : BitVec 4 → Prop)
    (h : ∀ c, groupOf (wordOfGroupCode c) = o ↔ P c) (w : Word32) : groupOf w = o ↔ P (fieldGroup w) := by
  rw [← h, groupOf_congr (fieldGroup_wordOfGroupCode (fieldGroup w)).symm]

theorem decode_of_groupOf_none {w : Word32} (h : groupOf w = none) : decode w = .error .noGroup := by
  simp [decode, h]

namespace Machine

/-- A tick on a word that fails decode raises UnimplementedInstruction (R70). -/
theorem tickOnWord_of_decode_error {w : Word32} {e : DecodeError} (h : decode w = .error e) (s : State) :
    tickOnWord w s = .next (s.raise .unimplementedInstruction) := by
  simp [tickOnWord, tickOnWordBy, h]

/-- Settles O6: each line of R61's table by its sixteen codes. -/
theorem groupByBits28To25 : Obligations.GroupByBits28To25 := fun w =>
  ⟨groupOf_iff (fun g => g.extractLsb' 1 3 = 0b100#3) (by decide) w,
    groupOf_iff (fun g => g.extractLsb' 0 3 = 0b101#3) (by decide) w,
    groupOf_iff (fun g => g.extractLsb' 0 3 = 0b111#3) (by decide) w,
    groupOf_iff (fun g => g.getLsbD 2 = true ∧ g.getLsbD 0 = false) (by decide) w,
    groupOf_iff (fun g => g.extractLsb' 1 3 = 0b101#3) (by decide) w,
    groupOf_iff (fun g => g.extractLsb' 2 2 = 0b00#2) (by decide) w,
    fun h s => tickOnWord_of_decode_error (decode_of_groupOf_none h) s⟩

end Machine

/-! ## Rows with contradicting fixed bits (R62) -/

/-- Two rows fix some bit to different values. -/
abbrev OpcodeRow.Contradicts (r q : OpcodeRow) : Prop := r.value &&& q.mask ≠ q.value &&& r.mask

theorem OpcodeRow.fixedBitsMatch_iff {r : OpcodeRow} {w : Word32} :
    r.fixedBitsMatch w = true ↔ w &&& r.mask = r.value := by
  simp [OpcodeRow.fixedBitsMatch]

theorem OpcodeRow.fixedBitsMatch_of_accepts {r : OpcodeRow} {w : Word32} (h : r.accepts w = true) :
    r.fixedBitsMatch w = true := by
  simp only [OpcodeRow.accepts, Bool.and_eq_true] at h
  exact h.1

theorem OpcodeRow.Contradicts.not_fixedBitsMatch {r q : OpcodeRow} (h : r.Contradicts q) {w : Word32}
    (hr : r.fixedBitsMatch w = true) : ¬ q.fixedBitsMatch w = true := by
  intro hq
  rw [OpcodeRow.fixedBitsMatch_iff] at hr hq
  apply h
  calc r.value &&& q.mask = w &&& r.mask &&& q.mask := by rw [hr]
    _ = w &&& q.mask &&& r.mask := by rw [BitVec.and_assoc, BitVec.and_comm r.mask, BitVec.and_assoc]
    _ = q.value &&& r.mask := by rw [hq]

/-- Any two of the thirteen rows differ in a bit that both fix. -/
theorem opcodeRows_pairwise_contradicts : opcodeRows.Pairwise OpcodeRow.Contradicts := by decide

/-- At most one of the thirteen rows accepts a word. -/
theorem opcodeRow_unique {r q : OpcodeRow} (hr : r ∈ opcodeRows) (hq : q ∈ opcodeRows) {w : Word32}
    (har : r.accepts w = true) (haq : q.accepts w = true) : r = q := by
  have : Std.Symm OpcodeRow.Contradicts := ⟨fun _ _ h => h.symm⟩
  by_contra hne
  exact (opcodeRows_pairwise_contradicts.forall hr hq hne).not_fixedBitsMatch
    (OpcodeRow.fixedBitsMatch_of_accepts har) (OpcodeRow.fixedBitsMatch_of_accepts haq)

/-! ## The rows of a group -/

/-- The rows the second level of the decoder tries in a group (R62). -/
def Group.rows : Group → List OpcodeRow
  | .dpImmediate => [rowSubImm, rowCmpImm]
  | .dpRegister => [rowAddShifted, rowSubShifted]
  | .scalarFp => [rowFadd, rowFsub]
  | .loadStore => [rowLdr32, rowLdr64, rowStr32, rowStr64]
  | .branch => [rowB, rowBCond, rowRet]

/-- The second level of the decoder in a group. -/
def Group.decoder : Group → Word32 → Except DecodeError Instr
  | .dpImmediate => decodeDpImmediate
  | .dpRegister => decodeDpRegister
  | .scalarFp => decodeScalarFp
  | .loadStore => decodeLoadStore
  | .branch => decodeBranch

theorem decode_of_groupOf_some {w : Word32} {g : Group} (h : groupOf w = some g) :
    decode w = g.decoder w := by
  cases g <;> simp [decode, h, Group.decoder]

theorem opcodeRows_eq_append_rows : opcodeRows =
    Group.dpImmediate.rows ++ Group.dpRegister.rows ++ Group.scalarFp.rows ++ Group.loadStore.rows ++
      Group.branch.rows := rfl

theorem exists_group_of_mem_opcodeRows {r : OpcodeRow} (hr : r ∈ opcodeRows) : ∃ g : Group, r ∈ g.rows := by
  simp only [opcodeRows_eq_append_rows, List.mem_append] at hr
  rcases hr with (((h | h) | h) | h) | h
  all_goals exact ⟨_, h⟩

/-- The fixed bits of a row in bits 28 to 25 leave only codes of the group that tries it (R62). -/
theorem Group.code_of_mem_rows (g : Group) : ∀ r ∈ g.rows, ∀ c,
    c &&& fieldGroup r.mask = fieldGroup r.value → groupOf (wordOfGroupCode c) = some g := by
  cases g <;> decide

theorem OpcodeRow.fieldGroup_of_accepts {r : OpcodeRow} {w : Word32} (h : r.accepts w = true) :
    fieldGroup w &&& fieldGroup r.mask = fieldGroup r.value := by
  rw [← OpcodeRow.fixedBitsMatch_iff.mp (OpcodeRow.fixedBitsMatch_of_accepts h)]
  exact BitVec.extractLsb'_and.symm

/-- A row accepts only words of the group that tries it. -/
theorem exists_group_of_accepts {r : OpcodeRow} (hr : r ∈ opcodeRows) {w : Word32} (h : r.accepts w = true) :
    ∃ g, groupOf w = some g ∧ r ∈ g.rows := by
  obtain ⟨g, hrg⟩ := exists_group_of_mem_opcodeRows hr
  refine ⟨g, ?_, hrg⟩
  rw [groupOf_congr (fieldGroup_wordOfGroupCode (fieldGroup w)).symm]
  exact g.code_of_mem_rows r hrg _ (OpcodeRow.fieldGroup_of_accepts h)

/-- A group's decoder answers an instruction only where that instruction's row accepts the word. -/
theorem Group.accepts_of_decoder_eq_ok {g : Group} {w : Word32} {i : Instr} (h : g.decoder w = .ok i) :
    i.row.accepts w = true := by
  cases g
  all_goals
    simp only [Group.decoder, decodeDpImmediate, decodeDpRegister, decodeScalarFp, decodeLoadStore,
      decodeBranch] at h
    split_ifs at h <;> cases h <;> assumption

/-- A group's decoder fails only where none of its rows accepts the word. -/
theorem Group.not_accepts_of_decoder_eq_error {g : Group} {w : Word32} {e : DecodeError}
    (h : g.decoder w = .error e) : ∀ r ∈ g.rows, ¬ r.accepts w = true := by
  cases g
  all_goals
    simp only [Group.decoder, decodeDpImmediate, decodeDpRegister, decodeScalarFp, decodeLoadStore,
      decodeBranch] at h
    split_ifs at h <;> simp_all [Group.rows]

/-! ## The two-level decode against the flat search of the rows (R62) -/

theorem Instr.row_mem_opcodeRows (i : Instr) : i.row ∈ opcodeRows := by
  cases i <;> simp [Instr.row, opcodeRows]

theorem accepts_of_decode_eq_ok {w : Word32} {i : Instr} (h : decode w = .ok i) : i.row.accepts w = true := by
  cases hg : groupOf w with
  | none => simp [decode_of_groupOf_none hg] at h
  | some g =>
    rw [decode_of_groupOf_some hg] at h
    exact Group.accepts_of_decoder_eq_ok h

/-- A word that one of the thirteen rows accepts decodes to an instruction of that row. -/
theorem decode_of_accepts {r : OpcodeRow} (hr : r ∈ opcodeRows) {w : Word32} (h : r.accepts w = true) :
    ∃ i, decode w = .ok i ∧ i.row = r := by
  obtain ⟨g, hg, hrg⟩ := exists_group_of_accepts hr h
  have hd := decode_of_groupOf_some hg
  cases hw : g.decoder w with
  | error e => exact absurd h (Group.not_accepts_of_decoder_eq_error hw r hrg)
  | ok i =>
    have hi := Group.accepts_of_decoder_eq_ok hw
    exact ⟨i, hd.trans hw, opcodeRow_unique i.row_mem_opcodeRows hr hi h⟩

/-- A word that none of the thirteen rows accepts fails decode. -/
theorem decode_error_of_not_accepts {w : Word32} (h : ∀ r ∈ opcodeRows, ¬ r.accepts w = true) :
    ∃ e, decode w = .error e := by
  cases hd : decode w with
  | error e => exact ⟨e, rfl⟩
  | ok i => exact absurd (accepts_of_decode_eq_ok hd) (h _ i.row_mem_opcodeRows)

/-- Settles O5: any two rows fix some bit differently, so no word is accepted by both; an accepted word is in the
group that tries its row, and the row of that group's answer is the only one that accepts. -/
theorem twoLevelDecodeAgreesWithRows : Obligations.TwoLevelDecodeAgreesWithRows := by
  refine ⟨by decide, ?_, fun w i h => accepts_of_decode_eq_ok h, fun w r hr h => decode_of_accepts hr h⟩
  refine opcodeRows_pairwise_contradicts.imp fun h w ⟨hr, hq⟩ => ?_
  exact h.not_fixedBitsMatch (OpcodeRow.fixedBitsMatch_of_accepts hr) (OpcodeRow.fixedBitsMatch_of_accepts hq)

/-- Words with fixed bits that contradict all thirteen rows fail decode. -/
theorem decode_error_of_contradicts {r : OpcodeRow} (hr : ∀ q ∈ opcodeRows, r.Contradicts q) {w : Word32}
    (h : r.fixedBitsMatch w = true) : ∃ e, decode w = .error e :=
  decode_error_of_not_accepts fun q hq haq =>
    (hr q hq).not_fixedBitsMatch h (OpcodeRow.fixedBitsMatch_of_accepts haq)

/-- The words of SUB (immediate) with the shift bit set (R121). -/
def shiftedSubImm : OpcodeRow := ⟨0xFFC00000#32, 0xD1400000#32, []⟩

/-- The words of CMP (immediate) with the shift bit set (R122). -/
def shiftedCmpImm : OpcodeRow := ⟨0xFFC0001F#32, 0xF140001F#32, []⟩

theorem shiftedSubImm_contradicts : ∀ q ∈ opcodeRows, shiftedSubImm.Contradicts q := by decide

theorem shiftedCmpImm_contradicts : ∀ q ∈ opcodeRows, shiftedCmpImm.Contradicts q := by decide

/-- A SUB or CMP (immediate) word with the shift bit set fails decode (R65). -/
theorem decode_error_of_shifted_immediate {w : Word32}
    (h : w &&& 0xFFC00000#32 = 0xD1400000#32 ∨ w &&& 0xFFC0001F#32 = 0xF140001F#32) :
    ∃ e, decode w = .error e := by
  rcases h with hsub | hcmp
  · exact decode_error_of_contradicts shiftedSubImm_contradicts (OpcodeRow.fixedBitsMatch_iff.mpr hsub)
  · exact decode_error_of_contradicts shiftedCmpImm_contradicts (OpcodeRow.fixedBitsMatch_iff.mpr hcmp)

namespace Machine

/-- A tick on a word that none of the thirteen rows accepts raises UnimplementedInstruction (R70). -/
theorem tickOnWord_of_not_accepts {w : Word32} (h : ∀ r ∈ opcodeRows, ¬ r.accepts w = true) (s : State) :
    tickOnWord w s = .next (s.raise .unimplementedInstruction) := by
  obtain ⟨e, he⟩ := decode_error_of_not_accepts h
  exact tickOnWord_of_decode_error he s

/-- Settles O2: no row accepts any of the listed words. -/
theorem listedWordsFail : Obligations.ListedWordsFail := by
  intro w hw s
  refine tickOnWord_of_not_accepts ?_ s
  fin_cases hw <;> decide

/-! ## Immediates as operands (R65) -/

@[simp] theorem toNat_immOperand (imm12 : BitVec 12) : (immOperand imm12).toNat = imm12.toNat := by
  simp only [immOperand, BitVec.truncate_eq_setWidth, BitVec.toNat_setWidth]
  omega

@[simp] theorem toNat_offset32 (imm12 : BitVec 12) : (offset32 imm12).toNat = 4 * imm12.toNat := by
  have h : offset32 imm12 = immOperand imm12 <<< 2 := rfl
  rw [h, BitVec.toNat_shiftLeft, toNat_immOperand, Nat.shiftLeft_eq]
  omega

@[simp] theorem toNat_offset64 (imm12 : BitVec 12) : (offset64 imm12).toNat = 8 * imm12.toNat := by
  have h : offset64 imm12 = immOperand imm12 <<< 3 := rfl
  rw [h, BitVec.toNat_shiftLeft, toNat_immOperand, Nat.shiftLeft_eq]
  omega

/-- A field of at most 62 bits, sign-extended and shifted left by 2, is four times its signed value. -/
theorem toInt_signExtend_shiftLeft_two {n : Nat} (hn : n ≤ 62) (x : BitVec n) :
    (x.signExtend 64 <<< 2).toInt = 4 * x.toInt := by
  have hpow : (2 : Int) ^ n ≤ 2 ^ 62 := pow_le_pow_right₀ (by decide) hn
  have hlow : -2 ^ n ≤ 2 * x.toInt := BitVec.le_two_mul_toInt
  have hhigh : 2 * x.toInt < 2 ^ n := BitVec.two_mul_toInt_lt
  have hfour : (BitVec.twoPow 64 2).toInt = 4 := by decide
  rw [BitVec.shiftLeft_eq_mul_twoPow, BitVec.toInt_mul, BitVec.toInt_signExtend_of_le (by omega), hfour,
    Int.bmod_eq_of_le_mul_two (by omega) (by omega), Int.mul_comm]

@[simp] theorem toInt_branchOffset26 (imm26 : BitVec 26) : (branchOffset26 imm26).toInt = 4 * imm26.toInt :=
  toInt_signExtend_shiftLeft_two (by decide) imm26

@[simp] theorem toInt_branchOffset19 (imm19 : BitVec 19) : (branchOffset19 imm19).toInt = 4 * imm19.toInt :=
  toInt_signExtend_shiftLeft_two (by decide) imm19

/-- The range of a field of `n + 1` bits scaled by 4. -/
theorem four_mul_toInt_range {n : Nat} (x : BitVec (n + 1)) :
    -2 ^ (n + 2) ≤ 4 * x.toInt ∧ 4 * x.toInt ≤ 2 ^ (n + 2) - 4 := by
  have hlow : -2 ^ n ≤ x.toInt := x.le_toInt
  have hhigh : x.toInt < 2 ^ n := x.toInt_lt
  rw [pow_add]
  omega

/-- Latching maps the shifted operand to latches that hold it. -/
theorem operandB_latchAddShifted (rd rn rm : RegIdx) (shift : ShiftType) (imm6 : BitVec 6) (s : State) :
    (latchAddShifted rd rn rm shift imm6 s).map (·.operandB) = shiftOperand (s.xOrZr rm) shift imm6 := by
  rw [latchAddShifted, Option.map_map]
  exact Option.map_id'

theorem operandB_latchSubShifted (rd rn rm : RegIdx) (shift : ShiftType) (imm6 : BitVec 6) (s : State) :
    (latchSubShifted rd rn rm shift imm6 s).map (·.operandB) = shiftOperand (s.xOrZr rm) shift imm6 := by
  rw [latchSubShifted, Option.map_map]
  exact Option.map_id'

theorem operandB_of_latchBCond {c : Cond} {imm19 : BitVec 19} {s : State} {l : Latches}
    (h : latchBCond c imm19 s = some l) : l.operandB = branchOffset19 imm19 := by
  obtain ⟨taken, -, rfl⟩ := Option.map_eq_some_iff.mp h
  rfl

/-- Settles O7: each latched operand by its value as a number, each range by the field's width. -/
theorem immediateOperandRanges : Obligations.ImmediateOperandRanges := by
  refine ⟨fun rd rn imm12 s => ⟨toNat_immOperand imm12, toNat_immOperand imm12, by omega⟩,
    fun w => decode_error_of_shifted_immediate,
    fun rd rn rm shift imm6 s => ⟨operandB_latchAddShifted .., operandB_latchSubShifted .., by omega⟩,
    fun rt rn imm12 s => ⟨toNat_offset32 imm12, toNat_offset32 imm12, by omega,
      toNat_offset64 imm12, toNat_offset64 imm12, by omega⟩,
    fun imm26 s => ⟨toInt_branchOffset26 imm26, four_mul_toInt_range imm26⟩,
    fun c imm19 s l h => ?_⟩
  rw [operandB_of_latchBCond h]
  exact ⟨toInt_branchOffset19 imm19, four_mul_toInt_range imm19⟩

end Machine

end Sys2Proof

/-! # Proofs about the stages after decode and the driver (spec/40_pipeline_stages.md) -/

namespace Sys2Proof.Machine

/-! ## The two domains of the execute stage (R95, R96, R98) -/

theorem executeStage_of_undefined {l : Latches} (h : l.floatOpKind = .undefined) (s : State) :
    executeStage l s = executeInt l.operandA l.operandB l.aluControl s := by
  simp [executeStage, h]

theorem executeStage_of_float32 {l : Latches} (h : l.floatOpKind = .float32) (s : State) :
    executeStage l s = executeFloat l.operandA l.operandB l.aluControl s := by
  simp [executeStage, h]

/-- `floatOpKind` selects the domain (R95). -/
theorem executeStage_eq_ite (l : Latches) (s : State) :
    executeStage l s =
      if l.floatOpKind = .float32 then executeFloat l.operandA l.operandB l.aluControl s
      else executeInt l.operandA l.operandB l.aluControl s := by
  cases h : l.floatOpKind with
  | undefined => simp [executeStage_of_undefined h]
  | float32 => simp [executeStage_of_float32 h]

section Domains

variable (a b : Word) (s : State)

@[simp] theorem executeInt_add : executeInt a b .add s = .done (a + b, s) := rfl

@[simp] theorem executeInt_sub : executeInt a b .sub s = .done (a - b, s) := rfl

@[simp] theorem executeInt_subs : executeInt a b .subs s = .done (a - b, s.writeSubFlags a b) := rfl

@[simp] theorem executeFloat_add : executeFloat a b .add s =
    .done ((fp32Add (a.extractLsb' 0 32) (b.extractLsb' 0 32)).setWidth 64, s) := rfl

@[simp] theorem executeFloat_sub : executeFloat a b .sub s =
    .done ((fp32Sub (a.extractLsb' 0 32) (b.extractLsb' 0 32)).setWidth 64, s) := rfl

/-- The integer domain has the codes 1 to 3 (R96). -/
theorem executeInt_of_code_notMem {ctl : AluControl} (h : ctl.code ∉ [1#3, 2#3, 3#3]) :
    executeInt a b ctl s = .failed .unimplementedALUControl s := by
  cases ctl with
  | undef => rfl
  | unsupported k => rfl
  | _ => exact absurd (by decide) h

/-- The float domain has the codes 1 and 2 (R98). -/
theorem executeFloat_of_code_notMem {ctl : AluControl} (h : ctl.code ∉ [1#3, 2#3]) :
    executeFloat a b ctl s = .failed .unimplementedALUControl s := by
  cases ctl with
  | undef => rfl
  | subs => rfl
  | unsupported k => rfl
  | _ => exact absurd (by decide) h

end Domains

/-- A code absent from the active domain fails the execute stage (R95). -/
theorem executeStage_of_code_notMem {l : Latches}
    (h : (l.floatOpKind = .undefined ∧ l.aluControl.code ∉ [1#3, 2#3, 3#3]) ∨
      (l.floatOpKind = .float32 ∧ l.aluControl.code ∉ [1#3, 2#3])) (s : State) :
    executeStage l s = .failed .unimplementedALUControl s := by
  rcases h with ⟨hk, hc⟩ | ⟨hk, hc⟩
  · rw [executeStage_of_undefined hk, executeInt_of_code_notMem _ _ _ hc]
  · rw [executeStage_of_float32 hk, executeFloat_of_code_notMem _ _ _ hc]

/-- A failing execute stage ends the tick with its cause raised (R104, R171). -/
theorem finishTick_of_executeStage_failed {l : Latches} {s t : State} {c : Cause}
    (h : executeStage l s = .failed c t) : finishTick l s = .next (t.raise c) := by
  simp [finishTick, finishTickWith, h, StageResult.andThen, StageResult.outcome]

/-- The 64-bit difference is the difference of the operands as numbers, modulo 2^64 (R7). -/
theorem toNat_sub_eq_emod (a b : Word) :
    ((a - b).toNat : Int) = ((a.toNat : Int) - b.toNat) % 2 ^ 64 := by
  have ha := a.isLt
  have hb := b.isLt
  rw [BitVec.toNat_sub]
  omega

/-- Settles O38: the equations of the two domains, and no code outside the active one is executed. -/
theorem executeDomains : Obligations.ExecuteDomains :=
  ⟨executeStage_eq_ite,
    fun a b s => ⟨a + b, a - b, executeInt_add a b s, BitVec.toNat_add a b, executeInt_sub a b s,
      toNat_sub_eq_emod a b, executeInt_subs a b s⟩,
    fun a b s => ⟨executeFloat_add a b s, executeFloat_sub a b s⟩,
    fun _ s h => finishTick_of_executeStage_failed (executeStage_of_code_notMem h s)⟩

/-! ## The flags of a subtraction (R97) -/

/-- The flag write of SUBS by bits of the operands and of the difference. -/
theorem State.writeSubFlags_eq (s : State) (a b : Word) :
    s.writeSubFlags a b =
      { s with n := (a - b).getLsbD 63, z := decide (a - b = 0#64),
               vf := (a.getLsbD 63 != b.getLsbD 63) && ((a - b).getLsbD 63 != a.getLsbD 63) } := by
  simp only [State.writeSubFlags, State.setFlags, flagN, flagZ, flagVf, BitVec.msb_eq_getLsbD_last,
    beq_eq_decide]

/-- Vf by signs is the signed overflow of the subtraction. -/
theorem flagVf_sub_eq_ssubOverflow (a b : Word) : flagVf a b (a - b) = BitVec.ssubOverflow a b := by
  rw [flagVf, BitVec.ssubOverflow_eq]
  cases a.msb <;> cases b.msb <;> simp

/-- Vf after SUBS: the exact signed difference is out of range. -/
theorem State.writeSubFlags_vf_iff (s : State) (a b : Word) :
    (s.writeSubFlags a b).vf = true ↔
      a.toInt - b.toInt < -2 ^ 63 ∨ 2 ^ 63 - 1 < a.toInt - b.toInt := by
  have hvf : (s.writeSubFlags a b).vf = BitVec.ssubOverflow a b := flagVf_sub_eq_ssubOverflow a b
  rw [hvf, BitVec.ssubOverflow, Bool.or_eq_true, decide_eq_true_eq, decide_eq_true_eq]
  omega

/-- Settles O35: SUBS of the integer domain by its equation, any other latches by what an execute stage
that is done can have done, and Vf as the library's signed overflow. -/
theorem flagWriteInExecute : Obligations.FlagWriteInExecute := by
  refine ⟨fun l s hk hc => ?_, fun l s t r hn h => ?_, fun a b s => s.writeSubFlags_vf_iff a b⟩
  · rw [executeStage_of_undefined hk, hc, executeInt_subs, State.writeSubFlags_eq]
  · exact (executeStage_done h).resolve_right fun ⟨hk, hc, _⟩ => hn ⟨hk, hc⟩

/-! ## The error state through a tick (R92, R171) -/

/-- A tick on supported latches leaves the error state, its cause and the run state. -/
theorem finishTick_errorState {l : Latches} {s t : State} (hl : l.supported)
    (h : finishTick l s = .next t) :
    t.cpuError = s.cpuError ∧ t.errorCause = s.errorCause ∧ t.runState = s.runState := by
  obtain ⟨r, s₁, d, s₂, s₃, he, hm, hw, rfl⟩ := finishTick_next hl h
  have h₁ : s₁.cpuError = s.cpuError ∧ s₁.errorCause = s.errorCause ∧ s₁.runState = s.runState := by
    rcases executeStage_done he with rfl | ⟨-, -, rfl⟩ <;> simp [State.writeSubFlags]
  have h₂ : s₂.cpuError = s₁.cpuError ∧ s₂.errorCause = s₁.errorCause ∧ s₂.runState = s₁.runState := by
    rcases memoryStage_done hm with rfl | ⟨-, rfl⟩ | ⟨-, rfl⟩ <;> simp
  have h₃ : s₃.cpuError = s₂.cpuError ∧ s₃.errorCause = s₂.errorCause ∧ s₃.runState = s₂.runState := by
    rcases writeBackStage_done hw with rfl | rfl <;> simp
  rcases advancePc_cases l.wbControl l.destination s₃ with h₄ | h₄ <;> simp [h₄, h₃, h₂, h₁]

/-- An instruction fails decode, or leaves the error state, its cause and the run state (R92). -/
theorem exec_errorState {i : Instr} {s t : State} (h : exec i s = .next t) :
    t = s.raise .unimplementedInstruction ∨
      (t.cpuError = s.cpuError ∧ t.errorCause = s.errorCause ∧ t.runState = s.runState) := by
  rcases exec_next h with ⟨-, ht⟩ | ⟨l, hl, ht⟩
  · exact .inl ht
  · exact .inr (finishTick_errorState (supported_of_latchInstr hl) ht)

/-- A tick raises UnimplementedInstruction, or leaves the error state, its cause and the run state. -/
theorem tick_errorState {s t : State} (h : tick s = .next t) :
    t = s.raise .unimplementedInstruction ∨
      (t.cpuError = s.cpuError ∧ t.errorCause = s.errorCause ∧ t.runState = s.runState) := by
  obtain ⟨w, -, ⟨i, -, hi⟩ | ⟨e, -, ht⟩⟩ := tick_next h
  · exact exec_errorState hi
  · exact .inl ht

/-! ## The transitions of the driver (R110, R113) -/

/-- A halted driver has no turn. -/
theorem driverTurn_ne_next_of_halted {s : State} (h : s.runState = .haltedOk ∨ s.runState = .haltedError)
    (b : Bool) (t : State) : driverTurn b s ≠ .next t := by
  intro ht
  obtain ⟨hr, -⟩ := driverTurn_next ht
  simp [hr] at h

/-- A turn in RUNNING with no error and the completion signal halts with success. -/
theorem driverTurn_finished {s : State} (hr : s.runState = .running) (he : s.cpuError = .none) :
    driverTurn true s = .next (s.setRunState .haltedOk) := by
  simp [driverTurn, driverTurnBy, hr, he]

/-- A tick of a running machine without an error halts it exactly when it records one. -/
theorem tick_runState {s t : State} (hr : s.runState = .running) (he : s.cpuError = .none)
    (h : tick s = .next t) :
    (t.cpuError = .unimplemented ∧ t.runState = .haltedError) ∨
      (t.cpuError = .none ∧ t.runState = .running) := by
  rcases tick_errorState h with rfl | ⟨hcpu, -, hrun⟩
  · exact .inl ⟨rfl, rfl⟩
  · exact .inr ⟨hcpu.trans he, hrun.trans hr⟩

theorem State.runStatus_eq_one_iff (s : State) : s.runStatus = some 1 ↔ s.runState = .haltedError := by
  unfold State.runStatus
  cases s.runState <;> simp

theorem State.runStatus_eq_zero_iff (s : State) : s.runStatus = some 0 ↔ s.runState = .haltedOk := by
  unfold State.runStatus
  cases s.runState <;> simp

/-- Settles O44: each transition by what a turn does on the value `finished` has in the state. -/
theorem driverTransitions : Obligations.DriverTransitions := by
  intro finished s
  refine ⟨fun a => rfl, fun h => driverTurn_ne_next_of_halted h (finished s), fun hr he hf => ?_,
    fun hr he hf => ?_, s.runStatus_eq_one_iff, s.runStatus_eq_zero_iff⟩
  · rw [driverStepUnder, hf]
    exact driverTurn_finished hr he
  · have hturn : driverStepUnder finished s = tick s := by
      rw [driverStepUnder, hf, driverTurn_tick hr he]
    exact ⟨hturn, fun t ht => tick_runState hr he (hturn ▸ ht)⟩

end Sys2Proof.Machine

/-! # Proofs about SUB and CMP (immediate) (spec/41_dp_immediate.md) -/

/-! ## The words of the group (R120 to R122) -/

namespace Sys2Proof

/-- A word that a row of a group accepts is decoded by that group's second level (R62). -/
theorem decode_eq_decoder_of_accepts {g : Group} {r : OpcodeRow} (hr : r ∈ g.rows) {w : Word32}
    (h : r.accepts w = true) : decode w = g.decoder w := by
  refine decode_of_groupOf_some ?_
  rw [groupOf_congr (fieldGroup_wordOfGroupCode (fieldGroup w)).symm]
  exact g.code_of_mem_rows r hr _ (OpcodeRow.fieldGroup_of_accepts h)

theorem decode_of_rowSubImm_accepts {w : Word32} (h : rowSubImm.accepts w = true) :
    decode w = .ok (.subImm (fieldRd w) (fieldRn w) (fieldImm12 w)) := by
  rw [decode_eq_decoder_of_accepts (g := .dpImmediate) (by decide) h]
  exact if_pos h

theorem decode_of_rowCmpImm_accepts {w : Word32} (h : rowCmpImm.accepts w = true) :
    decode w = .ok (.cmpImm (fieldRn w) (fieldImm12 w)) := by
  have hsub : ¬ rowSubImm.accepts w = true := fun hs =>
    absurd (opcodeRow_unique (by decide) (by decide) h hs) (by decide)
  rw [decode_eq_decoder_of_accepts (g := .dpImmediate) (by decide) h]
  exact (if_neg hsub).trans (if_pos h)

/-- The words of flag-setting SUB (immediate) with the shift bit set, whatever `Rd` is (R122). -/
def shiftedSubsImm : OpcodeRow := ⟨0xFFC00000#32, 0xF1400000#32, []⟩

/-- The words of flag-setting SUB (immediate), whatever `Rd` is; those with `Rd = 31` are CMP (R122). -/
def subsImm : OpcodeRow := ⟨0xFFC00000#32, 0xF1000000#32, []⟩

theorem shiftedSubsImm_contradicts : ∀ q ∈ opcodeRows, shiftedSubsImm.Contradicts q := by decide

theorem subsImm_contradicts : ∀ q ∈ opcodeRows, q ≠ rowCmpImm → subsImm.Contradicts q := by decide

/-- The row of CMP fixes all five bits of `Rd` to 1. -/
theorem fieldRd_of_rowCmpImm_accepts {w : Word32} (h : rowCmpImm.accepts w = true) : fieldRd w = 31#5 := by
  have hfix := OpcodeRow.fixedBitsMatch_iff.mp (OpcodeRow.fixedBitsMatch_of_accepts h)
  calc fieldRd w = fieldRd w &&& fieldRd rowCmpImm.mask := BitVec.and_allOnes.symm
    _ = fieldRd (w &&& rowCmpImm.mask) := BitVec.extractLsb'_and.symm
    _ = 31#5 := by rw [hfix]; decide

/-- A flag-setting SUB (immediate) word with the shift bit set, or with `Rd` other than 31, fails decode
(R122). -/
theorem decode_error_of_subsImm {w : Word32}
    (h : w &&& 0xFFC00000#32 = 0xF1400000#32 ∨
      (w &&& 0xFFC00000#32 = 0xF1000000#32 ∧ fieldRd w ≠ 31#5)) :
    ∃ e, decode w = .error e := by
  rcases h with hshift | ⟨hfix, hrd⟩
  · exact decode_error_of_contradicts shiftedSubsImm_contradicts (OpcodeRow.fixedBitsMatch_iff.mpr hshift)
  · refine decode_error_of_not_accepts fun q hq haq => ?_
    by_cases hcmp : q = rowCmpImm
    · exact hrd (fieldRd_of_rowCmpImm_accepts (hcmp ▸ haq))
    · exact (subsImm_contradicts q hq hcmp).not_fixedBitsMatch (OpcodeRow.fixedBitsMatch_iff.mpr hfix)
        (OpcodeRow.fixedBitsMatch_of_accepts haq)

end Sys2Proof

/-! ## The next state (R121, R122) -/

namespace Sys2Proof.Machine

theorem Loc.gprOrSp_of_lt {i : RegIdx} (h : i.toNat < 31) : Loc.gprOrSp i = .gpr ⟨i.toNat, h⟩ := dif_pos h

theorem Loc.gprOrSp_of_not_lt {i : RegIdx} (h : ¬ i.toNat < 31) : Loc.gprOrSp i = .sp := dif_neg h

/-- SUB (R121): the difference in the destination, and the PC. -/
theorem exec_subImm (rd rn : RegIdx) (imm12 : BitVec 12) (s : State) :
    exec (.subImm rd rn imm12) s =
      .next ((s.writeLoc (Loc.gprOrSp rd) (s.xOrSp rn - immOperand imm12)).setPc (s.pc + 4#64)) :=
  finishTick_latchIntResult_sub _ _ (Loc.gprOrSp_ne_pc rd) s

/-- Settles O8: a word under the mask is accepted by SUB's row, one with the shift bit set by no row; the next
state by the equation of SUB, the destination being a register or SP. -/
theorem subImmediate : Obligations.SubImmediate := by
  refine ⟨fun w hw => decode_of_rowSubImm_accepts (Laws.row_accepts_of hw nofun), fun w hw s => ?_,
    fun rd rn imm12 s => ⟨rfl, ?_⟩⟩
  · obtain ⟨e, he⟩ := decode_error_of_shifted_immediate (.inl hw)
    exact tickOnWord_of_decode_error he s
  · rw [exec_subImm]
    split
    case isTrue h => rw [Loc.gprOrSp_of_lt h]; rfl
    case isFalse h => rw [Loc.gprOrSp_of_not_lt h]; rfl

/-- An immediate operand is not negative. -/
theorem getLsbD_immOperand_63 (imm12 : BitVec 12) : (immOperand imm12).getLsbD 63 = false := by
  simp [immOperand]

/-- Subtracting an operand that is not negative overflows exactly from a negative number to one that is
not. -/
theorem State.writeSubFlags_of_nonneg (s : State) (a : Word) {b : Word} (hb : b.getLsbD 63 = false) :
    s.writeSubFlags a b =
      { s with n := (a - b).getLsbD 63, z := decide (a - b = 0#64),
               vf := a.getLsbD 63 && !(a - b).getLsbD 63 } := by
  rw [State.writeSubFlags_eq, hb]
  cases a.getLsbD 63 <;> simp

/-- Settles O9: a word under the mask is accepted by CMP's row, a failing one by no row; the next state by the
equation of CMP, its second operand not being negative. -/
theorem cmpImmediate : Obligations.CmpImmediate := by
  refine ⟨fun w hw => decode_of_rowCmpImm_accepts (Laws.row_accepts_of hw nofun), fun w hw s => ?_,
    fun rn imm12 s => ⟨rfl, ?_⟩⟩
  · obtain ⟨e, he⟩ := decode_error_of_subsImm hw
    exact tickOnWord_of_decode_error he s
  · rw [exec_cmpImm, State.writeSubFlags_of_nonneg s _ (getLsbD_immOperand_63 imm12)]
    rfl

end Sys2Proof.Machine

/-! # Proofs about ADD and SUB (shifted register) (spec/42_dp_register.md) -/

/-! ## The words of the group (R69, R130) -/

namespace Sys2Proof

/-- A word agrees with the fixed bits of at most one of the thirteen rows. -/
theorem opcodeRow_eq_of_fixedBitsMatch {r q : OpcodeRow} (hr : r ∈ opcodeRows) (hq : q ∈ opcodeRows)
    {w : Word32} (hwr : r.fixedBitsMatch w = true) (hwq : q.fixedBitsMatch w = true) : r = q := by
  have : Std.Symm OpcodeRow.Contradicts := ⟨fun _ _ h => h.symm⟩
  by_contra hne
  exact (opcodeRows_pairwise_contradicts.forall hr hq hne).not_fixedBitsMatch hwr hwq

/-- A word that agrees with the fixed bits of a row and with one of its excluded pairs fails decode (R62). -/
theorem decode_error_of_excluded {r : OpcodeRow} (hr : r ∈ opcodeRows) {w : Word32}
    (hfix : r.fixedBitsMatch w = true) {p : Word32 × Word32} (hp : p ∈ r.excluded) (hw : w &&& p.1 = p.2) :
    ∃ e, decode w = .error e := by
  refine decode_error_of_not_accepts fun q hq haq => ?_
  obtain rfl : r = q :=
    opcodeRow_eq_of_fixedBitsMatch hr hq hfix (OpcodeRow.fixedBitsMatch_of_accepts haq)
  exact OpcodeRow.and_ne_of_accepts haq hp hw

/-- The excluded pair of ADD and SUB (shifted register) is shift code 11 (R69). -/
theorem and_shiftMask_eq_iff {w : Word32} :
    w &&& 0x00C00000#32 = 0x00C00000#32 ↔ fieldShift w = 0b11#2 := by
  rw [and_shiftMask_eq]
  generalize fieldShift w = c
  revert c
  decide

/-- A row whose one exclusion is shift code 11 accepts the words under its mask with another code. -/
theorem accepts_of_fieldShift_ne {r : OpcodeRow} (hx : r.excluded = [(0x00C00000#32, 0x00C00000#32)])
    {w : Word32} (hfix : w &&& r.mask = r.value) (hs : fieldShift w ≠ 0b11#2) : r.accepts w = true := by
  refine Laws.row_accepts_of hfix fun p hp => ?_
  rw [hx, List.mem_singleton] at hp
  rw [hp]
  exact mt and_shiftMask_eq_iff.mp hs

/-- A word under the mask of ADD or SUB (shifted register) with shift code 11 fails decode (R69). -/
theorem decode_error_of_reservedShift {w : Word32}
    (h : w &&& 0xFF200000#32 = 0x8B000000#32 ∨ w &&& 0xFF200000#32 = 0xCB000000#32)
    (hs : fieldShift w = 0b11#2) : ∃ e, decode w = .error e := by
  rcases h with hadd | hsub
  · exact decode_error_of_excluded (r := rowAddShifted) (by decide) (OpcodeRow.fixedBitsMatch_iff.mpr hadd)
      (List.mem_singleton_self _) (and_shiftMask_eq_iff.mpr hs)
  · exact decode_error_of_excluded (r := rowSubShifted) (by decide) (OpcodeRow.fixedBitsMatch_iff.mpr hsub)
      (List.mem_singleton_self _) (and_shiftMask_eq_iff.mpr hs)

theorem decode_of_rowAddShifted_accepts {w : Word32} (h : rowAddShifted.accepts w = true) :
    decode w = .ok (.addShifted (fieldRd w) (fieldRn w) (fieldRm w) (ShiftType.ofCode (fieldShift w))
      (fieldImm6 w)) := by
  rw [decode_eq_decoder_of_accepts (g := .dpRegister) (by decide) h]
  exact if_pos h

theorem decode_of_rowSubShifted_accepts {w : Word32} (h : rowSubShifted.accepts w = true) :
    decode w = .ok (.subShifted (fieldRd w) (fieldRn w) (fieldRm w) (ShiftType.ofCode (fieldShift w))
      (fieldImm6 w)) := by
  have hadd : ¬ rowAddShifted.accepts w = true := fun ha =>
    absurd (opcodeRow_unique (by decide) (by decide) h ha) (by decide)
  rw [decode_eq_decoder_of_accepts (g := .dpRegister) (by decide) h]
  exact (if_neg hadd).trans (if_pos h)

/-- The words of flag-setting SUB (shifted register), CMP with a register operand among them (R133). -/
def subsShifted : OpcodeRow := ⟨0xFF200000#32, 0xEB000000#32, []⟩

theorem subsShifted_contradicts : ∀ q ∈ opcodeRows, subsShifted.Contradicts q := by decide

end Sys2Proof

/-! ## The shifted operand (R131) -/

namespace Sys2Proof.Machine

/-- A logical left shift multiplies by a power of two, modulo 2^64. -/
theorem toNat_shiftLeft_eq_mul (v : Word) (k : Nat) : (v <<< k).toNat = v.toNat * 2 ^ k % 2 ^ 64 := by
  rw [BitVec.toNat_shiftLeft, Nat.shiftLeft_eq]

/-- A logical right shift divides the unsigned value by a power of two. -/
theorem toNat_ushiftRight_eq_div (v : Word) (k : Nat) : (v >>> k).toNat = v.toNat / 2 ^ k := by
  rw [BitVec.toNat_ushiftRight, Nat.shiftRight_eq_div_pow]

/-- An arithmetic right shift divides the signed value by a power of two, rounding down. -/
theorem toInt_sshiftRight_eq_div (v : Word) (k : Nat) : (v.sshiftRight k).toInt = v.toInt / 2 ^ k := by
  rw [BitVec.toInt_sshiftRight, Int.shiftRight_eq_div_pow, Nat.cast_pow, Nat.cast_ofNat]

/-- An arithmetic right shift by 63 leaves -1 or 0, by the sign. -/
theorem sshiftRight_63 (v : Word) :
    v.sshiftRight 63 = if v.getLsbD 63 then 0xFFFFFFFFFFFFFFFF#64 else 0#64 := by
  have hsign : v.getLsbD 63 = decide (v.toInt < 0) := v.msb_eq_getLsbD_last ▸ BitVec.msb_eq_toInt
  have hlow := v.le_toInt
  have hhigh := v.toInt_lt
  apply BitVec.eq_of_toInt_eq
  simp only [toInt_sshiftRight_eq_div, hsign, decide_eq_true_eq]
  split
  · change v.toInt / 2 ^ 63 = -1
    omega
  · change v.toInt / 2 ^ 63 = 0
    omega

/-- A logical right shift by 63 leaves the highest bit as the lowest. -/
theorem ushiftRight_63 (v : Word) : v >>> 63 = if v.getLsbD 63 then 1#64 else 0#64 := by
  have htop : v.getLsbD 63 = decide (2 ^ 63 ≤ v.toNat) := v.msb_eq_getLsbD_last ▸ v.msb_eq_decide
  apply BitVec.eq_of_toNat_eq
  simp only [toNat_ushiftRight_eq_div, htop, decide_eq_true_eq]
  split
  · change v.toNat / 2 ^ 63 = 1
    omega
  · change v.toNat / 2 ^ 63 = 0
    omega

/-- A logical left shift by 63 leaves the lowest bit as the highest. -/
theorem shiftLeft_63 (v : Word) : v <<< 63 = if v.getLsbD 0 then 0x8000000000000000#64 else 0#64 := by
  have hlow : v.getLsbD 0 = decide (v.toNat % 2 = 1) := Nat.testBit_zero _
  apply BitVec.eq_of_toNat_eq
  simp only [toNat_shiftLeft_eq_mul, hlow, decide_eq_true_eq]
  split
  · change v.toNat * 2 ^ 63 % 2 ^ 64 = 2 ^ 63
    omega
  · change v.toNat * 2 ^ 63 % 2 ^ 64 = 0
    omega

/-- A tick on an ADD or SUB (shifted register) word with shift code 11 raises UnimplementedInstruction (R69). -/
theorem tickOnWord_of_reservedShift {w : Word32}
    (h : w &&& 0xFF200000#32 = 0x8B000000#32 ∨ w &&& 0xFF200000#32 = 0xCB000000#32)
    (hs : fieldShift w = 0b11#2) (s : State) : tickOnWord w s = .next (s.raise .unimplementedInstruction) := by
  obtain ⟨e, he⟩ := decode_error_of_reservedShift h hs
  exact tickOnWord_of_decode_error he s

/-- Settles O10: each shift by its arithmetic, the shifts by 63 from it; a word with shift code 11 is accepted
by no row. -/
theorem shiftedOperand : Obligations.ShiftedOperand :=
  ⟨fun v imm6 => ⟨⟨_, rfl, toNat_shiftLeft_eq_mul v imm6.toNat⟩, ⟨_, rfl, toNat_ushiftRight_eq_div v imm6.toNat⟩,
      ⟨_, rfl, toInt_sshiftRight_eq_div v imm6.toNat⟩⟩,
    fun v => ⟨congrArg some v.shiftLeft_zero, congrArg some v.ushiftRight_zero,
      congrArg some BitVec.sshiftRight_zero, congrArg some (sshiftRight_63 v), congrArg some (ushiftRight_63 v),
      congrArg some (shiftLeft_63 v)⟩,
    fun _ hw hs => tickOnWord_of_reservedShift hw hs⟩

/-! ## The next state (R132, R133) -/

theorem Loc.gprOrZr_of_lt {i : RegIdx} (h : i.toNat < 31) : Loc.gprOrZr i = .gpr ⟨i.toNat, h⟩ := dif_pos h

theorem Loc.gprOrZr_of_not_lt {i : RegIdx} (h : ¬ i.toNat < 31) : Loc.gprOrZr i = .zr := dif_neg h

/-- A result written through a field whose index 31 is the zero register, and the PC: one register at most. -/
theorem State.setPc_writeLoc_gprOrZr (s : State) (rd : RegIdx) (r p : Word) :
    (s.writeLoc (Loc.gprOrZr rd) r).setPc p =
      if h : rd.toNat < 31 then { s with x := s.x.set rd.toNat r h, pc := p } else { s with pc := p } := by
  split
  case isTrue h => rw [Loc.gprOrZr_of_lt h]; rfl
  case isFalse h => rw [Loc.gprOrZr_of_not_lt h, State.writeLoc_zr]; rfl

section ShiftedRegister

variable (rd rn : RegIdx) {rm : RegIdx} {shift : ShiftType} {imm6 : BitVec 6} {s : State} {b : Word}

/-- ADD latches its shifted operand (R132). -/
theorem latchAddShifted_of_shiftOperand (h : shiftOperand (s.xOrZr rm) shift imm6 = some b) :
    latchAddShifted rd rn rm shift imm6 s = some (latchIntResult (s.xOrZr rn) b .add (Loc.gprOrZr rd)) :=
  congrArg (Option.map _) h

/-- SUB latches its shifted operand (R133). -/
theorem latchSubShifted_of_shiftOperand (h : shiftOperand (s.xOrZr rm) shift imm6 = some b) :
    latchSubShifted rd rn rm shift imm6 s = some (latchIntResult (s.xOrZr rn) b .sub (Loc.gprOrZr rd)) :=
  congrArg (Option.map _) h

/-- ADD (R132): the sum in the destination, and the PC. -/
theorem exec_addShifted (h : shiftOperand (s.xOrZr rm) shift imm6 = some b) :
    exec (.addShifted rd rn rm shift imm6) s =
      .next ((s.writeLoc (Loc.gprOrZr rd) (s.xOrZr rn + b)).setPc (s.pc + 4#64)) := by
  rw [exec_eq_finishDecoded, latchInstr, latchAddShifted_of_shiftOperand rd rn h]
  exact finishTick_latchIntResult_add _ _ (Loc.gprOrZr_ne_pc rd) s

/-- SUB (R133): the difference in the destination, and the PC. -/
theorem exec_subShifted (h : shiftOperand (s.xOrZr rm) shift imm6 = some b) :
    exec (.subShifted rd rn rm shift imm6) s =
      .next ((s.writeLoc (Loc.gprOrZr rd) (s.xOrZr rn - b)).setPc (s.pc + 4#64)) := by
  rw [exec_eq_finishDecoded, latchInstr, latchSubShifted_of_shiftOperand rd rn h]
  exact finishTick_latchIntResult_sub _ _ (Loc.gprOrZr_ne_pc rd) s

end ShiftedRegister

/-- Settles O11: a word under the mask is accepted by ADD's row or, with shift code 11, by none; the next state
by the equation of ADD, the destination being a register or the zero register. -/
theorem addShiftedRegister : Obligations.AddShiftedRegister := by
  refine ⟨fun w hw => ?_, fun rd rn rm shift imm6 s b hb => ⟨latchAddShifted_of_shiftOperand rd rn hb, ?_⟩⟩
  · split
    case isTrue hs => exact tickOnWord_of_reservedShift (.inl hw) hs
    case isFalse hs => exact decode_of_rowAddShifted_accepts (accepts_of_fieldShift_ne rfl hw hs)
  · rw [exec_addShifted rd rn hb, State.setPc_writeLoc_gprOrZr]
    rfl

/-- Settles O12: as ADD, with the difference; the flag-setting words contradict every row. -/
theorem subShiftedRegister : Obligations.SubShiftedRegister := by
  refine ⟨fun w hw => ?_, fun w hw s => ?_,
    fun rd rn rm shift imm6 s b hb => ⟨latchSubShifted_of_shiftOperand rd rn hb, ?_⟩⟩
  · split
    case isTrue hs => exact tickOnWord_of_reservedShift (.inr hw) hs
    case isFalse hs => exact decode_of_rowSubShifted_accepts (accepts_of_fieldShift_ne rfl hw hs)
  · obtain ⟨e, he⟩ := decode_error_of_contradicts subsShifted_contradicts (OpcodeRow.fixedBitsMatch_iff.mpr hw)
    exact tickOnWord_of_decode_error he s
  · rw [exec_subShifted rd rn hb, State.setPc_writeLoc_gprOrZr]
    rfl

end Sys2Proof.Machine

/-! # Proofs about FADD and FSUB (scalar, single precision) (spec/43_fp_scalar.md) -/

/-! ## The words of the group (R140, R144, R145) -/

namespace Sys2Proof

theorem decode_of_rowFadd_accepts {w : Word32} (h : rowFadd.accepts w = true) :
    decode w = .ok (.fadd (fieldRd w) (fieldRn w) (fieldRm w)) := by
  rw [decode_eq_decoder_of_accepts (g := .scalarFp) (by decide) h]
  exact if_pos h

theorem decode_of_rowFsub_accepts {w : Word32} (h : rowFsub.accepts w = true) :
    decode w = .ok (.fsub (fieldRd w) (fieldRn w) (fieldRm w)) := by
  have hadd : ¬ rowFadd.accepts w = true := fun ha =>
    absurd (opcodeRow_unique (by decide) (by decide) h ha) (by decide)
  rw [decode_eq_decoder_of_accepts (g := .scalarFp) (by decide) h]
  exact (if_neg hadd).trans (if_pos h)

end Sys2Proof

namespace Sys2Proof.Machine

/-! ## What a pattern denotes (R141) -/

section Pattern

variable {p : Word32}

theorem fp32Value_of_exponent_zero (he : fp32Exponent p = 0) :
    fp32Value p = .finite (fp32Negative p) (fp32Fraction p) := by
  simp [fp32Value, he]

theorem fp32Value_of_exponent_normal (h₁ : 1 ≤ fp32Exponent p) (h₂ : fp32Exponent p ≤ 254) :
    fp32Value p = .finite (fp32Negative p) ((2 ^ 23 + fp32Fraction p) * 2 ^ (fp32Exponent p - 1)) := by
  rw [fp32Value, if_neg (by omega), if_neg (by omega)]

theorem fp32Value_of_infinity (he : fp32Exponent p = 255) (hf : fp32Fraction p = 0) :
    fp32Value p = .infinity (fp32Negative p) := by
  simp [fp32Value, he, hf]

theorem fp32Value_of_nan (he : fp32Exponent p = 255) (hf : fp32Fraction p ≠ 0) : fp32Value p = .nan := by
  simp [fp32Value, he, hf]

/-- Only the patterns of the last row of the table are NaNs. -/
theorem fp32Value_eq_nan_iff : fp32Value p = .nan ↔ fp32Exponent p = 255 ∧ fp32Fraction p ≠ 0 := by
  unfold fp32Value
  split_ifs <;> simp_all

theorem isFp32Nan_iff : isFp32Nan p = true ↔ fp32Exponent p = 255 ∧ fp32Fraction p ≠ 0 := by
  simp [isFp32Nan, fp32Exponent, fp32Fraction, ← BitVec.toNat_inj]

theorem isFp32Nan_iff_fp32Value : isFp32Nan p = true ↔ fp32Value p = .nan :=
  isFp32Nan_iff.trans fp32Value_eq_nan_iff.symm

end Pattern

/-- Settles O16: the operands are the low halves by definition; the table row by row, the sign being bit 31. -/
theorem fp32PatternTable : Obligations.Fp32PatternTable := by
  refine ⟨fun rd rn rm s => ⟨rfl, rfl, rfl, rfl⟩, fun p => ?_⟩
  have hsign : p.getLsbD 31 = fp32Negative p := (BitVec.msb_eq_getLsbD_last p).symm
  rw [hsign]
  exact ⟨fp32Value_of_exponent_zero, fun ⟨hlo, hhi⟩ => fp32Value_of_exponent_normal hlo hhi,
    fun ⟨he, hf⟩ => fp32Value_of_infinity he hf, fun ⟨he, hf⟩ => fp32Value_of_nan he hf⟩

/-! ## A pattern from its sign and the 31 bits below it -/

theorem fp32Exponent_fp32Pattern (n : Bool) (m : Nat) :
    fp32Exponent (fp32Pattern n m) = m / 2 ^ 23 % 2 ^ 8 := by
  have hfield : (fp32Pattern n m).extractLsb' 23 8 = (BitVec.ofNat 31 m).extractLsb' 23 8 :=
    BitVec.extractLsb'_append_eq_of_add_le (by decide)
  rw [fp32Exponent, hfield, BitVec.extractLsb'_toNat, BitVec.toNat_ofNat, Nat.shiftRight_eq_div_pow]
  omega

theorem fp32Fraction_fp32Pattern (n : Bool) (m : Nat) : fp32Fraction (fp32Pattern n m) = m % 2 ^ 23 := by
  have hfield : (fp32Pattern n m).extractLsb' 0 23 = (BitVec.ofNat 31 m).extractLsb' 0 23 :=
    BitVec.extractLsb'_append_eq_of_add_le (by decide)
  rw [fp32Fraction, hfield, BitVec.extractLsb'_toNat, BitVec.toNat_ofNat, Nat.shiftRight_zero]
  omega

/-- Every pattern is built from its three fields. -/
theorem fp32Pattern_fields (p : Word32) :
    fp32Pattern (fp32Negative p) (fp32Exponent p * 2 ^ 23 + fp32Fraction p) = p := by
  have hlow : BitVec.ofNat 31 (fp32Exponent p * 2 ^ 23 + fp32Fraction p) = p.setWidth 31 := by
    apply BitVec.eq_of_toNat_eq
    rw [fp32Exponent, fp32Fraction, BitVec.toNat_ofNat, BitVec.extractLsb'_toNat, BitVec.extractLsb'_toNat,
      BitVec.toNat_setWidth, Nat.shiftRight_eq_div_pow, Nat.shiftRight_zero]
    omega
  rw [fp32Pattern, hlow]
  exact BitVec.cons_msb_setWidth p

/-! ## NaN patterns (R143) -/

theorem isFp32Nan_fp32NanPattern (q : NaN32) : isFp32Nan (fp32NanPattern q) = true := by
  have hq := q.fractionLessOne.isLt
  rw [isFp32Nan_iff, fp32NanPattern, fp32Exponent_fp32Pattern, fp32Fraction_fp32Pattern, fp32InfinityBits]
  omega

/-- A NaN pattern is the value of the open parameter with its sign and its fraction. -/
theorem exists_fp32NanPattern_eq {p : Word32} (h : isFp32Nan p = true) : ∃ q : NaN32, fp32NanPattern q = p := by
  obtain ⟨he, hf⟩ := isFp32Nan_iff.mp h
  have hlt : fp32Fraction p < 2 ^ 23 := (p.extractLsb' 0 23).isLt
  refine ⟨⟨fp32Negative p, ⟨fp32Fraction p - 1, by omega⟩⟩, ?_⟩
  have hbits : fp32InfinityBits + (fp32Fraction p - 1 + 1) = fp32Exponent p * 2 ^ 23 + fp32Fraction p := by
    rw [he, fp32InfinityBits]
    omega
  exact (congrArg _ hbits).trans (fp32Pattern_fields p)

/-! ## The sign bit inverted (step 1 of R142) -/

/-- The value of the other sign. -/
def Fp32Value.neg : Fp32Value → Fp32Value
  | .nan => .nan
  | .infinity n => .infinity (!n)
  | .finite n u => .finite (!n) u

theorem fp32Negative_flipSign (p : Word32) : fp32Negative (p ^^^ 0x80000000#32) = !fp32Negative p := by
  rw [fp32Negative, BitVec.msb_xor]
  exact Bool.xor_true _

theorem fp32Exponent_flipSign (p : Word32) : fp32Exponent (p ^^^ 0x80000000#32) = fp32Exponent p := by
  simp [fp32Exponent, BitVec.extractLsb'_xor]

theorem fp32Fraction_flipSign (p : Word32) : fp32Fraction (p ^^^ 0x80000000#32) = fp32Fraction p := by
  simp [fp32Fraction, BitVec.extractLsb'_xor]

theorem fp32Value_flipSign (p : Word32) : fp32Value (p ^^^ 0x80000000#32) = (fp32Value p).neg := by
  simp only [fp32Value, fp32Negative_flipSign, fp32Exponent_flipSign, fp32Fraction_flipSign]
  split_ifs <;> rfl

theorem Fp32Value.neg_eq_nan_iff {v : Fp32Value} : v.neg = .nan ↔ v = .nan := by
  cases v <;> simp [Fp32Value.neg]

theorem Fp32Value.neg_eq_infinity_iff {v : Fp32Value} {n : Bool} : v.neg = .infinity n ↔ v = .infinity (!n) := by
  cases v <;> simp [Fp32Value.neg, Bool.not_eq_eq_eq_not]

/-! ## When a sum or a difference is a NaN (steps 1 to 3 of R142, R143) -/

section Sum

variable {a b : Word32}

/-- The sum is a NaN when an operand is one, and when the operands are infinities of opposite sign. -/
theorem addNoNan_eq_none_iff : addNoNan a b = none ↔
    fp32Value a = .nan ∨ fp32Value b = .nan ∨
      ∃ n, fp32Value a = .infinity n ∧ fp32Value b = .infinity (!n) := by
  unfold addNoNan
  cases fp32Value a with
  | nan => simp
  | finite na ua => cases fp32Value b <;> simp
  | infinity na =>
    cases fp32Value b with
    | nan => simp
    | finite nb ub => simp
    | infinity nb => cases na <;> cases nb <;> simp

/-- A difference is a NaN when an operand is one, and when the operands are infinities of one sign. -/
theorem addNoNan_flipSign_eq_none_iff : addNoNan a (b ^^^ 0x80000000#32) = none ↔
    fp32Value a = .nan ∨ fp32Value b = .nan ∨ ∃ n, fp32Value a = .infinity n ∧ fp32Value b = .infinity n := by
  simp only [addNoNan_eq_none_iff, fp32Value_flipSign, Fp32Value.neg_eq_nan_iff, Fp32Value.neg_eq_infinity_iff,
    Bool.not_not]

theorem isFp32Nan_fp32Add_of_none (h : addNoNan a b = none) : isFp32Nan (fp32Add a b) = true := by
  rw [fp32Add, h]
  exact isFp32Nan_fp32NanPattern _

theorem isFp32Nan_fp32Sub_of_none (h : addNoNan a (b ^^^ 0x80000000#32) = none) :
    isFp32Nan (fp32Sub a b) = true := by
  rw [fp32Sub, h]
  exact isFp32Nan_fp32NanPattern _

theorem fp32Sub_of_some {r : Word32} (h : addNoNan a (b ^^^ 0x80000000#32) = some r) : fp32Sub a b = r := by
  rw [fp32Sub, h]

end Sum

/-- Settles O19: where R142 gives no number the result is the open parameter, and its values are exactly the NaN
patterns. -/
theorem nanResultIsSomeNan : Obligations.NanResultIsSomeNan := by
  refine ⟨fun a b h => isFp32Nan_fp32Add_of_none (addNoNan_eq_none_iff.mpr ?_),
    fun a b h => isFp32Nan_fp32Sub_of_none (addNoNan_flipSign_eq_none_iff.mpr ?_),
    isFp32Nan_fp32NanPattern, fun p => exists_fp32NanPattern_eq⟩
  all_goals simpa only [isFp32Nan_iff_fp32Value] using h

/-! ## The next state (R144, R145) -/

/-- The low half of a zero-extended single-precision operand is the operand. -/
theorem extractLsb'_setWidth_word32 (a : Word32) : (a.setWidth 64).extractLsb' 0 32 = a := by
  rw [BitVec.extractLsb'_setWidth_of_le (by decide), BitVec.extractLsb'_eq_self]

section FloatResult

variable (a b : Word32) (s : State)

/-- The float domain on zero-extended operands (R98). -/
theorem executeFloat_add_setWidth :
    executeFloat (a.setWidth 64) (b.setWidth 64) .add s = .done ((fp32Add a b).setWidth 64, s) := by
  rw [executeFloat_add, extractLsb'_setWidth_word32, extractLsb'_setWidth_word32]

theorem executeFloat_sub_setWidth :
    executeFloat (a.setWidth 64) (b.setWidth 64) .sub s = .done ((fp32Sub a b).setWidth 64, s) := by
  rw [executeFloat_sub, extractLsb'_setWidth_word32, extractLsb'_setWidth_word32]

variable {a b s}

/-- A float result: the location is written and the PC advances. -/
theorem finishTick_latchFloatResult {ctl : AluControl} {dest : Loc} {r : Word}
    (hx : executeFloat (a.setWidth 64) (b.setWidth 64) ctl s = .done (r, s)) (hd : dest ≠ .pc) :
    finishTick (latchFloatResult a b ctl dest) s = .next ((s.writeLoc dest r).setPc (s.pc + 4#64)) := by
  simp [finishTick, finishTickWith, latchFloatResult, executeStage, hx, memoryStageWith, StageResult.andThen,
    writeBackStage, committedValue, advancePc, hd, State.writeLoc_pc s hd, StageResult.outcome]

end FloatResult

/-- FADD (R144): the sum of the low halves, zero-extended, in the destination, and the PC. -/
theorem exec_fadd (rd rn rm : RegIdx) (s : State) :
    exec (.fadd rd rn rm) s =
      .next ((s.writeLoc (Loc.ofFpr rd) ((fp32Add (s.sReg rn) (s.sReg rm)).setWidth 64)).setPc (s.pc + 4#64)) :=
  finishTick_latchFloatResult (executeFloat_add_setWidth _ _ s) (Loc.ofFpr_ne_pc rd)

/-- FSUB (R145): the difference of the low halves, zero-extended, in the destination, and the PC. -/
theorem exec_fsub (rd rn rm : RegIdx) (s : State) :
    exec (.fsub rd rn rm) s =
      .next ((s.writeLoc (Loc.ofFpr rd) ((fp32Sub (s.sReg rn) (s.sReg rm)).setWidth 64)).setPc (s.pc + 4#64)) :=
  finishTick_latchFloatResult (executeFloat_sub_setWidth _ _ s) (Loc.ofFpr_ne_pc rd)

/-- Settles O14: a word under the mask is accepted by FADD's row; the next state by the equation of FADD. -/
theorem faddSingle : Obligations.FaddSingle :=
  ⟨fun _ hw => decode_of_rowFadd_accepts (Laws.row_accepts_of hw nofun),
    fun rd rn rm s => ⟨rfl, exec_fadd rd rn rm s⟩⟩

/-! ## A register minus itself (step 5 of R142, R145) -/

/-- Finite values of opposite sign and one magnitude sum to +0. -/
theorem addFinite_opposite (n : Bool) (u : Nat) : addFinite n u (!n) u = 0x00000000#32 := by
  cases n <;> simp [addFinite, signedUnits]

theorem addNoNan_of_finite {a b : Word32} {na nb : Bool} {ua ub : Nat} (ha : fp32Value a = .finite na ua)
    (hb : fp32Value b = .finite nb ub) : addNoNan a b = some (addFinite na ua nb ub) := by
  simp [addNoNan, ha, hb]

theorem fp32Sub_self_of_finite {a : Word32} {n : Bool} {u : Nat} (h : fp32Value a = .finite n u) :
    fp32Sub a a = 0x00000000#32 := by
  have hneg : fp32Value (a ^^^ 0x80000000#32) = .finite (!n) u := by rw [fp32Value_flipSign, h]; rfl
  rw [fp32Sub_of_some (addNoNan_of_finite h hneg), addFinite_opposite]

theorem isFp32Nan_fp32Sub_self {a : Word32} {n : Bool} (h : fp32Value a = .infinity n ∨ fp32Value a = .nan) :
    isFp32Nan (fp32Sub a a) = true :=
  isFp32Nan_fp32Sub_of_none <| addNoNan_flipSign_eq_none_iff.mpr <|
    h.elim (fun hinf => .inr (.inr ⟨n, hinf, hinf⟩)) .inl

/-- Settles O15: as FADD, with the difference; a finite value minus itself is an exact zero sum, an infinity or a
NaN minus itself has no number as its result. -/
theorem fsubSingle : Obligations.FsubSingle :=
  ⟨fun _ hw => decode_of_rowFsub_accepts (Laws.row_accepts_of hw nofun),
    fun rd rn rm s => ⟨rfl, exec_fsub rd rn rm s⟩,
    fun _ _ _ => fp32Sub_self_of_finite, fun _ _ => isFp32Nan_fp32Sub_self⟩

end Sys2Proof.Machine

/-! # Proofs about LDR and STR (unsigned offset) (spec/44_load_store.md) -/

/-! ## The words of the group (R150, R152 to R155) -/

namespace Sys2Proof

/-- A word that one of the thirteen rows accepts is accepted by no other. -/
theorem not_accepts_of_accepts {r q : OpcodeRow} (hr : r ∈ opcodeRows) (hq : q ∈ opcodeRows) (hne : r ≠ q)
    {w : Word32} (h : r.accepts w = true) : ¬ q.accepts w = true :=
  fun haq => hne (opcodeRow_unique hr hq h haq)

section LoadStoreWords

variable {w : Word32}

theorem decode_of_rowLdr32_accepts (h : rowLdr32.accepts w = true) :
    decode w = .ok (.ldr32 (fieldRt w) (fieldRn w) (fieldImm12 w)) := by
  rw [decode_eq_decoder_of_accepts (g := .loadStore) (by decide) h]
  exact if_pos h

theorem decode_of_rowLdr64_accepts (h : rowLdr64.accepts w = true) :
    decode w = .ok (.ldr64 (fieldRt w) (fieldRn w) (fieldImm12 w)) := by
  have hldr32 : ¬ rowLdr32.accepts w = true := not_accepts_of_accepts (by decide) (by decide) (by decide) h
  rw [decode_eq_decoder_of_accepts (g := .loadStore) (by decide) h]
  exact (if_neg hldr32).trans (if_pos h)

theorem decode_of_rowStr32_accepts (h : rowStr32.accepts w = true) :
    decode w = .ok (.str32 (fieldRt w) (fieldRn w) (fieldImm12 w)) := by
  have hldr32 : ¬ rowLdr32.accepts w = true := not_accepts_of_accepts (by decide) (by decide) (by decide) h
  have hldr64 : ¬ rowLdr64.accepts w = true := not_accepts_of_accepts (by decide) (by decide) (by decide) h
  rw [decode_eq_decoder_of_accepts (g := .loadStore) (by decide) h]
  exact (if_neg hldr32).trans ((if_neg hldr64).trans (if_pos h))

theorem decode_of_rowStr64_accepts (h : rowStr64.accepts w = true) :
    decode w = .ok (.str64 (fieldRt w) (fieldRn w) (fieldImm12 w)) := by
  have hldr32 : ¬ rowLdr32.accepts w = true := not_accepts_of_accepts (by decide) (by decide) (by decide) h
  have hldr64 : ¬ rowLdr64.accepts w = true := not_accepts_of_accepts (by decide) (by decide) (by decide) h
  have hstr32 : ¬ rowStr32.accepts w = true := not_accepts_of_accepts (by decide) (by decide) (by decide) h
  rw [decode_eq_decoder_of_accepts (g := .loadStore) (by decide) h]
  exact (if_neg hldr32).trans ((if_neg hldr64).trans ((if_neg hstr32).trans (if_pos h)))

end LoadStoreWords

end Sys2Proof

/-! ## The memory stage on an accepted request (R99 to R101) -/

namespace Sys2Proof.Machine

section AcceptedRequest

variable (c : Collaborator) (dest : Loc) {a : Word} {s : State}

/-- An accepted port request is done, and what follows it runs on its answer. -/
theorem StageResult.ofPort_request_andThen {α β : Type} {k : RequestKind} (h : s.memAdmit k a = true) (r : α)
    (next : α → StageResult β) : (StageResult.ofPort (s.request k a r)).andThen next = next r := by
  rw [State.request_of_admit h]
  rfl

/-- A 32-bit load is zero-extended (R101). -/
theorem memoryStageWith_read32 (h : s.memAdmit .read32 a = true) :
    memoryStageWith c .read32 dest a s =
      .done (some ((c.readData32 s.mem a).1.setWidth 64), s.setMem (c.readData32 s.mem a).2) :=
  StageResult.ofPort_request_andThen h _ _

theorem memoryStageWith_read64 (h : s.memAdmit .read64 a = true) :
    memoryStageWith c .read64 dest a s =
      .done (some (c.readData64 s.mem a).1, s.setMem (c.readData64 s.mem a).2) :=
  StageResult.ofPort_request_andThen h _ _

/-- A 32-bit store takes the low half of the location the destination names (R100). -/
theorem memoryStageWith_write32 (h : s.memAdmit .write32 a = true) :
    memoryStageWith c .write32 dest a s =
      .done (none, s.setMem (c.writeData32 s.mem a ((s.readLoc dest).extractLsb' 0 32))) :=
  StageResult.ofPort_request_andThen h _ _

theorem memoryStageWith_write64 (h : s.memAdmit .write64 a = true) :
    memoryStageWith c .write64 dest a s =
      .done (none, s.setMem (c.writeData64 s.mem a (s.readLoc dest))) :=
  StageResult.ofPort_request_andThen h _ _

end AcceptedRequest

/-! ## The rest of a tick on the latches of a load and of a store (R93, R103) -/

section LoadStoreTick

variable {c : Collaborator} {base offset : Word} {ctl : MemControl} {dest : Loc} {s t : State}

/-- The address is base plus offset, and execute changes nothing (R96). -/
theorem executeStage_latchLoad (base offset : Word) (ctl : MemControl) (dest : Loc) (s : State) :
    executeStage (latchLoad base offset ctl dest) s = .done (base + offset, s) := rfl

theorem executeStage_latchStore (base offset : Word) (ctl : MemControl) (src : Loc) (s : State) :
    executeStage (latchStore base offset ctl src) s = .done (base + offset, s) := rfl

/-- A load: the loaded value is committed after the memory stage, and the PC advances. -/
theorem finishTickWith_latchLoad {v : Word} (hd : dest ≠ .pc)
    (hm : memoryStageWith c ctl dest (base + offset) s = .done (some v, t)) :
    finishTickWith c (latchLoad base offset ctl dest) s = .next ((t.writeLoc dest v).setPc (t.pc + 4#64)) := by
  rw [finishTickWith, executeStage_latchLoad]
  simp [latchLoad, hm, StageResult.andThen, writeBackStage, committedValue, advancePc, hd,
    State.writeLoc_pc t hd, StageResult.outcome]

/-- A store commits nothing: what the memory stage leaves, and the PC advances. -/
theorem finishTickWith_latchStore (hm : memoryStageWith c ctl dest (base + offset) s = .done (none, t)) :
    finishTickWith c (latchStore base offset ctl dest) s = .next (t.setPc (t.pc + 4#64)) := by
  rw [finishTickWith, executeStage_latchStore]
  simp [latchStore, hm, StageResult.andThen, writeBackStage, advancePc, StageResult.outcome]

end LoadStoreTick

/-! ## The next state (R152 to R155) -/

section LoadStoreNext

variable (c : Collaborator) (rt : RegIdx) {rn : RegIdx} {imm12 : BitVec 12} {s : State}

/-- LDR 32-bit (R152): the zero-extended answer in the destination, what the read left, and the PC. -/
theorem execLdr32With_of_admit (h : s.memAdmit .read32 (s.xOrSp rn + offset32 imm12) = true) :
    execLdr32With c rt rn imm12 s =
      let r := c.readData32 s.mem (s.xOrSp rn + offset32 imm12)
      .next (((s.setMem r.2).writeLoc (Loc.gprOrZr rt) (r.1.setWidth 64)).setPc (s.pc + 4#64)) :=
  finishTickWith_latchLoad (Loc.gprOrZr_ne_pc rt) (memoryStageWith_read32 c _ h)

/-- LDR 64-bit (R153): as LDR 32-bit without the extension. -/
theorem execLdr64With_of_admit (h : s.memAdmit .read64 (s.xOrSp rn + offset64 imm12) = true) :
    execLdr64With c rt rn imm12 s =
      let r := c.readData64 s.mem (s.xOrSp rn + offset64 imm12)
      .next (((s.setMem r.2).writeLoc (Loc.gprOrZr rt) r.1).setPc (s.pc + 4#64)) :=
  finishTickWith_latchLoad (Loc.gprOrZr_ne_pc rt) (memoryStageWith_read64 c _ h)

/-- STR 32-bit (R154): what the write of the low half of the data register leaves, and the PC. -/
theorem execStr32With_of_admit (h : s.memAdmit .write32 (s.xOrSp rn + offset32 imm12) = true) :
    execStr32With c rt rn imm12 s =
      .next ((s.setMem (c.writeData32 s.mem (s.xOrSp rn + offset32 imm12)
        ((s.xOrZr rt).extractLsb' 0 32))).setPc (s.pc + 4#64)) := by
  rw [← State.readLoc_gprOrZr]
  exact finishTickWith_latchStore (memoryStageWith_write32 c _ h)

/-- STR 64-bit (R155): all 64 bits of the data register are written. -/
theorem execStr64With_of_admit (h : s.memAdmit .write64 (s.xOrSp rn + offset64 imm12) = true) :
    execStr64With c rt rn imm12 s =
      .next ((s.setMem (c.writeData64 s.mem (s.xOrSp rn + offset64 imm12) (s.xOrZr rt))).setPc
        (s.pc + 4#64)) := by
  rw [← State.readLoc_gprOrZr]
  exact finishTickWith_latchStore (memoryStageWith_write64 c _ h)

/-- LDR 32-bit on the reference memory, whose reads change nothing (log 4). -/
theorem exec_ldr32 (h : s.memAdmit .read32 (s.xOrSp rn + offset32 imm12) = true) :
    exec (.ldr32 rt rn imm12) s =
      .next ((s.writeLoc (Loc.gprOrZr rt)
        ((s.mem.read32 (s.xOrSp rn + offset32 imm12)).setWidth 64)).setPc (s.pc + 4#64)) :=
  execLdr32With_of_admit .reference rt h

theorem exec_ldr64 (h : s.memAdmit .read64 (s.xOrSp rn + offset64 imm12) = true) :
    exec (.ldr64 rt rn imm12) s =
      .next ((s.writeLoc (Loc.gprOrZr rt) (s.mem.read64 (s.xOrSp rn + offset64 imm12))).setPc
        (s.pc + 4#64)) :=
  execLdr64With_of_admit .reference rt h

theorem exec_str32 (h : s.memAdmit .write32 (s.xOrSp rn + offset32 imm12) = true) :
    exec (.str32 rt rn imm12) s =
      .next ((s.setMem (s.mem.write32 (s.xOrSp rn + offset32 imm12)
        ((s.xOrZr rt).extractLsb' 0 32))).setPc (s.pc + 4#64)) :=
  execStr32With_of_admit .reference rt h

theorem exec_str64 (h : s.memAdmit .write64 (s.xOrSp rn + offset64 imm12) = true) :
    exec (.str64 rt rn imm12) s =
      .next ((s.setMem (s.mem.write64 (s.xOrSp rn + offset64 imm12) (s.xOrZr rt))).setPc (s.pc + 4#64)) :=
  execStr64With_of_admit .reference rt h

end LoadStoreNext

/-- The low half of a register read whose index 31 is the zero register. -/
theorem State.extractLsb'_xOrZr (s : State) (i : RegIdx) :
    (s.xOrZr i).extractLsb' 0 32 = if h : i.toNat < 31 then s.x[i.toNat].extractLsb' 0 32 else 0#32 := by
  unfold State.xOrZr
  split <;> rfl

/-- Settles O20: a word under the mask is accepted by the row of LDR 32-bit; an accepted read answers, and its
answer goes to a register or the zero register. -/
theorem ldr32 : Obligations.Ldr32 := by
  refine ⟨fun _ hw => decode_of_rowLdr32_accepts (Laws.row_accepts_of hw nofun),
    fun rt rn imm12 s => ⟨rfl, fun h => ⟨_, State.readData32_of_admit h, ?_⟩⟩⟩
  rw [exec_ldr32 rt h, State.setPc_writeLoc_gprOrZr]
  rfl

/-- Settles O21: as LDR 32-bit, without the extension. -/
theorem ldr64 : Obligations.Ldr64 := by
  refine ⟨fun _ hw => decode_of_rowLdr64_accepts (Laws.row_accepts_of hw nofun),
    fun rt rn imm12 s => ⟨rfl, fun h => ⟨_, State.readData64_of_admit h, ?_⟩⟩⟩
  rw [exec_ldr64 rt h, State.setPc_writeLoc_gprOrZr]
  rfl

/-- Settles O22: a word under the mask is accepted by the row of STR 32-bit; an accepted write leaves one content
of the memory, which is the next state's. -/
theorem str32 : Obligations.Str32 := by
  refine ⟨fun _ hw => decode_of_rowStr32_accepts (Laws.row_accepts_of hw nofun),
    fun rt rn imm12 s => ⟨rfl, fun h => ⟨_, State.writeData32_of_admit h _, ?_⟩⟩⟩
  rw [exec_str32 rt h, State.extractLsb'_xOrZr]
  rfl

/-- Settles O23: as STR 32-bit, all 64 bits being stored. -/
theorem str64 : Obligations.Str64 :=
  ⟨fun _ hw => decode_of_rowStr64_accepts (Laws.row_accepts_of hw nofun),
    fun rt _ _ _ => ⟨rfl, fun h => ⟨_, State.writeData64_of_admit h _, exec_str64 rt h⟩⟩⟩

end Sys2Proof.Machine

/-! # Proofs about B, B.cond and RET (spec/45_branch.md) -/

/-! ## The words of the group (R160, R161, R163, R164) -/

namespace Sys2Proof

section BranchWords

variable {w : Word32}

theorem decode_of_rowB_accepts (h : rowB.accepts w = true) : decode w = .ok (.b (fieldImm26 w)) := by
  rw [decode_eq_decoder_of_accepts (g := .branch) (by decide) h]
  exact if_pos h

theorem decode_of_rowBCond_accepts (h : rowBCond.accepts w = true) :
    decode w = .ok (.bCond (Cond.ofCode (fieldCond w)) (fieldImm19 w)) := by
  have hb : ¬ rowB.accepts w = true := not_accepts_of_accepts (by decide) (by decide) (by decide) h
  rw [decode_eq_decoder_of_accepts (g := .branch) (by decide) h]
  exact (if_neg hb).trans (if_pos h)

theorem decode_of_rowRet_accepts (h : rowRet.accepts w = true) : decode w = .ok (.ret (fieldRn w)) := by
  have hb : ¬ rowB.accepts w = true := not_accepts_of_accepts (by decide) (by decide) (by decide) h
  have hbCond : ¬ rowBCond.accepts w = true := not_accepts_of_accepts (by decide) (by decide) (by decide) h
  rw [decode_eq_decoder_of_accepts (g := .branch) (by decide) h]
  exact (if_neg hb).trans ((if_neg hbCond).trans (if_pos h))

/-- The excluded pairs of B.cond are the four codes of the conditions that need a carry flag (R72). -/
theorem rowBCond_excluded : rowBCond.excluded =
    [0b0010#4, 0b0011#4, 0b1000#4, 0b1001#4].map fun c => (0x0000000F#32, c.setWidth 32) := by decide

/-- The bits an excluded pair of B.cond looks at are the condition field. -/
theorem and_condMask_eq_iff {c : BitVec 4} : w &&& 0x0000000F#32 = c.setWidth 32 ↔ fieldCond w = c := by
  rw [and_condMask_eq]
  exact ⟨fun h => by simpa using congrArg (BitVec.setWidth 4) h, congrArg _⟩

/-- A word under the mask of B.cond on CS, CC, HI or LS fails decode (R162). -/
theorem decode_error_of_carryCondition (hfix : w &&& 0xFF000010#32 = 0x54000000#32)
    (hc : fieldCond w ∈ [0b0010#4, 0b0011#4, 0b1000#4, 0b1001#4]) : ∃ e, decode w = .error e :=
  decode_error_of_excluded (r := rowBCond) (by decide) (OpcodeRow.fixedBitsMatch_iff.mpr hfix)
    (rowBCond_excluded ▸ List.mem_map_of_mem hc) (and_condMask_eq w)

/-- The row of B.cond accepts the words under its mask on the other twelve conditions. -/
theorem rowBCond_accepts_of_fieldCond (hfix : w &&& 0xFF000010#32 = 0x54000000#32)
    (hc : fieldCond w ∉ [0b0010#4, 0b0011#4, 0b1000#4, 0b1001#4]) : rowBCond.accepts w = true := by
  refine Laws.row_accepts_of hfix fun p hp hw => hc ?_
  rw [rowBCond_excluded] at hp
  obtain ⟨c, hmem, rfl⟩ := List.mem_map.mp hp
  exact and_condMask_eq_iff.mp hw ▸ hmem

end BranchWords

/-! ## The codes of the conditions (R72, R162) -/

@[simp] theorem Cond.ofCode_code (c : Cond) : Cond.ofCode c.code = c := by cases c <;> rfl

@[simp] theorem Cond.code_ofCode (k : BitVec 4) : (Cond.ofCode k).code = k := by revert k; decide

/-- Two codes that differ in the low bit alone: the odd one is the even one with that bit set. -/
theorem eq_or_one_of_extractLsb'_eq {x y : BitVec 4} (htop : x.extractLsb' 1 3 = y.extractLsb' 1 3)
    (hx : x.getLsbD 0 = false) (hy : y.getLsbD 0 = true) : y = x ||| 1#4 := by
  revert x y; decide

namespace Machine

/-- A tick on a B.cond word whose condition needs a carry flag raises UnimplementedInstruction (R162). -/
theorem tickOnWord_of_carryCondition {w : Word32} (hfix : w &&& 0xFF000010#32 = 0x54000000#32)
    (hc : fieldCond w ∈ [0b0010#4, 0b0011#4, 0b1000#4, 0b1001#4]) (s : State) :
    tickOnWord w s = .next (s.raise .unimplementedInstruction) := by
  obtain ⟨e, he⟩ := decode_error_of_carryCondition hfix hc
  exact tickOnWord_of_decode_error he s

/-! ## The next state of a branch (R161, R163, R164) -/

/-- Settles O29: a word under the mask is accepted by B's row; the next state by the equation of B. -/
theorem branchImmediate : Obligations.BranchImmediate :=
  ⟨fun _ hw => decode_of_rowB_accepts (Laws.row_accepts_of hw nofun),
    fun imm26 s => ⟨rfl, exec_b imm26 s⟩⟩

/-- B.cond latches the target, and whether the branch is taken (R163). -/
theorem latchBCond_of_condHolds {c : Cond} (imm19 : BitVec 19) {s : State} {taken : Bool}
    (h : s.condHolds c = some taken) :
    latchBCond c imm19 s = some (latchBranch s.pc (branchOffset19 imm19) taken) :=
  congrArg (Option.map _) h

/-- Settles O31: a word under the mask is accepted by B.cond's row or, on an excluded condition, by none; the
next state by the equation of B.cond. -/
theorem branchConditional : Obligations.BranchConditional := by
  refine ⟨fun w hw => ?_, by decide,
    fun c imm19 s taken h => ⟨latchBCond_of_condHolds imm19 h, exec_bCond imm19 h⟩⟩
  split
  case isTrue hc => exact tickOnWord_of_carryCondition hw hc
  case isFalse hc =>
    exact ⟨_, Cond.code_ofCode _, decode_of_rowBCond_accepts (rowBCond_accepts_of_fieldCond hw hc)⟩

/-- The target of RET by the register file: index 0 stands for X[30], index 31 for the zero register (R164). -/
theorem State.retTarget_eq (s : State) (rn : RegIdx) :
    s.retTarget rn =
      if rn = 0#5 then s.x[30] else if h : rn.toNat < 31 then s.x[rn.toNat] else 0#64 := rfl

/-- Settles O32: a word under the mask is accepted by RET's row; the next state by the equation of RET. -/
theorem returnFromSubroutine : Obligations.ReturnFromSubroutine := by
  refine ⟨fun _ hw => decode_of_rowRet_accepts (Laws.row_accepts_of hw nofun), fun rn s => ?_⟩
  rw [← State.retTarget_eq]
  exact ⟨rfl, exec_ret rn s⟩

/-! ## The conditions on the held flags (R162) -/

/-- Setting the low bit of a condition's code inverts its test, but for AL. -/
theorem State.condHolds_ofCode_or_one (s : State) {c : Cond} (heven : c.code.getLsbD 0 = false) (hal : c ≠ .al) :
    s.condHolds (Cond.ofCode (c.code ||| 1#4)) = (s.condHolds c).map (!·) := by
  cases c with
  | al => exact absurd rfl hal
  | eq | cs | mi | vs | hi | ge => rfl
  | gt =>
    change some (s.z || s.n != s.vf) = some (!(!s.z && s.n == s.vf))
    rw [Bool.not_and, Bool.not_not, bne]
  | _ => exact absurd heven (by decide)

/-- Of two conditions whose codes differ in the low bit alone, the odd one is the inverse test, but for NV. -/
theorem State.condHolds_of_odd (s : State) {c d : Cond} (htop : c.code.extractLsb' 1 3 = d.code.extractLsb' 1 3)
    (hc : c.code.getLsbD 0 = false) (hd : d.code.getLsbD 0 = true) (hnv : d ≠ .nv) :
    s.condHolds d = (s.condHolds c).map (!·) := by
  have hdc : d = Cond.ofCode (c.code ||| 1#4) := by
    rw [← eq_or_one_of_extractLsb'_eq htop hc hd, Cond.ofCode_code]
  rw [hdc]
  refine s.condHolds_ofCode_or_one hc fun hal => hnv ?_
  rw [hdc, hal]
  rfl

theorem State.condHolds_setPc (s : State) (p : Word) (c : Cond) : (s.setPc p).condHolds c = s.condHolds c := by
  cases c <;> rfl

/-! ## The conditions after a subtraction (R97, R162) -/

section AfterSubtraction

variable (s : State) (a b : Word)

/-- Z after SUBS: the operands are equal. -/
theorem State.writeSubFlags_z : (s.writeSubFlags a b).z = decide (a.toInt = b.toInt) := by
  simp [State.writeSubFlags_eq, BitVec.sub_eq_iff_eq_add, BitVec.toInt_inj]

/-- N is Vf after SUBS exactly if the first operand is not less: N is the sign of the wrapped difference, and Vf
says whether wrapping turned the sign over. -/
theorem State.writeSubFlags_n_beq_vf :
    ((s.writeSubFlags a b).n == (s.writeSubFlags a b).vf) = decide (a.toInt ≥ b.toInt) := by
  have hn : (s.writeSubFlags a b).n = true ↔ (a - b).toInt < 0 := by
    change (a - b).msb = true ↔ _
    rw [BitVec.msb_eq_toInt, decide_eq_true_eq]
  have hvf := s.writeSubFlags_vf_iff a b
  have ha := a.le_toInt
  have ha' := a.toInt_lt
  have hb := b.le_toInt
  have hb' := b.toInt_lt
  rw [BitVec.toInt_sub, Int.bmod_def] at hn
  rw [Bool.eq_iff_iff, beq_iff_eq, Bool.eq_iff_iff, hn, hvf, decide_eq_true_eq]
  omega

theorem State.condHolds_writeSubFlags_eq :
    (s.writeSubFlags a b).condHolds .eq = some (decide (a.toInt = b.toInt)) :=
  congrArg some (s.writeSubFlags_z a b)

theorem State.condHolds_writeSubFlags_ge :
    (s.writeSubFlags a b).condHolds .ge = some (decide (a.toInt ≥ b.toInt)) :=
  congrArg some (s.writeSubFlags_n_beq_vf a b)

/-- GT is GE without EQ. -/
theorem State.condHolds_writeSubFlags_gt :
    (s.writeSubFlags a b).condHolds .gt = some (decide (a.toInt > b.toInt)) := by
  rw [State.condHolds, State.writeSubFlags_z, State.writeSubFlags_n_beq_vf, ← decide_not, ← Bool.decide_and]
  exact congrArg some (decide_eq_decide.mpr (by omega))

theorem State.condHolds_writeSubFlags_ne :
    (s.writeSubFlags a b).condHolds .ne = some (decide (a.toInt ≠ b.toInt)) := by
  rw [State.condHolds_of_odd (c := .eq) (d := .ne) _ rfl rfl rfl (by decide), State.condHolds_writeSubFlags_eq]
  simp

theorem State.condHolds_writeSubFlags_lt :
    (s.writeSubFlags a b).condHolds .lt = some (decide (a.toInt < b.toInt)) := by
  rw [State.condHolds_of_odd (c := .ge) (d := .lt) _ rfl rfl rfl (by decide), State.condHolds_writeSubFlags_ge]
  simp [← decide_not]

theorem State.condHolds_writeSubFlags_le :
    (s.writeSubFlags a b).condHolds .le = some (decide (a.toInt ≤ b.toInt)) := by
  rw [State.condHolds_of_odd (c := .gt) (d := .le) _ rfl rfl rfl (by decide), State.condHolds_writeSubFlags_gt]
  simp [← decide_not]

theorem State.condHolds_writeSubFlags_mi :
    (s.writeSubFlags a b).condHolds .mi = some ((a - b).getLsbD 63) :=
  congrArg some (a - b).msb_eq_getLsbD_last

/-- Subtracting an operand that is not negative overflows only downwards. -/
theorem State.condHolds_writeSubFlags_vs {b : Word} (hb : 0 ≤ b.toInt) :
    (s.writeSubFlags a b).condHolds .vs = some (decide (a.toInt - b.toInt < -2 ^ 63)) := by
  have ha := a.toInt_lt
  refine congrArg some (Bool.eq_iff_iff.mpr ?_)
  rw [State.writeSubFlags_vf_iff, decide_eq_true_eq]
  omega

end AfterSubtraction

theorem toInt_immOperand (imm12 : BitVec 12) : (immOperand imm12).toInt = imm12.toNat := by
  have := imm12.isLt
  rw [BitVec.toInt_eq_toNat_of_lt (by rw [toNat_immOperand]; omega), toNat_immOperand]

/-- Settles O30: the tables and the codes by cases; an odd condition is the even one below it inverted; a word on an
excluded condition is accepted by no row; CMP writes the flags of a subtraction, whose conditions compare its operands
as signed numbers. -/
theorem conditionEvaluation : Obligations.ConditionEvaluation := by
  refine ⟨fun s => by and_intros <;> rfl, fun s => by and_intros <;> rfl, Cond.ofCode_code, Cond.code_ofCode,
    fun s c d hc hd htop hce hdo hnv hcs hds => ?_, fun w => tickOnWord_of_carryCondition,
    fun rn imm12 s t h => ?_⟩
  · rw [s.condHolds_of_odd htop hce hdo hnv, hcs] at hds
    exact (Option.some.inj hds).symm
  · cases h.symm.trans (exec_cmpImm rn imm12 s)
    have hnonneg : 0 ≤ (immOperand imm12).toInt := by rw [toInt_immOperand]; omega
    simp only [State.condHolds_setPc, ← toInt_immOperand]
    exact ⟨State.condHolds_writeSubFlags_eq .., State.condHolds_writeSubFlags_ne ..,
      State.condHolds_writeSubFlags_ge .., State.condHolds_writeSubFlags_lt ..,
      State.condHolds_writeSubFlags_gt .., State.condHolds_writeSubFlags_le ..,
      State.condHolds_writeSubFlags_mi .., State.condHolds_writeSubFlags_vs s _ hnonneg⟩

end Machine

end Sys2Proof

/-! # Proofs about the sticky error (spec/60_exceptions.md) -/

namespace Sys2Proof.Machine

/-! ## The error along the steps of a run (R174) -/

/-- A turn in RUNNING with the error recorded halts with failure, whatever the completion signal is (R111). -/
theorem driverTurn_of_error {s : State} (hr : s.runState = .running) (he : s.cpuError = .unimplemented)
    (b : Bool) : driverTurn b s = .next (s.setRunState .haltedError) := by
  simp [driverTurn, driverTurnBy, hr, he]

/-- A turn from a state with the error writes the run state alone: the error bars the completion signal and the
tick. -/
theorem eq_setRunState_of_driverTurn_of_error {b : Bool} {s t : State} (h : driverTurn b s = .next t)
    (he : s.cpuError = .unimplemented) : t = s.setRunState .haltedError := by
  obtain ⟨-, ⟨-, ht⟩ | ⟨hnone, -⟩ | ⟨hnone, -⟩⟩ := driverTurn_next h
  · exact ht
  · cases he.symm.trans hnone
  · cases he.symm.trans hnone

theorem step_getError_of_error {s t : State} (h : step s = .next t) (he : s.cpuError = .unimplemented) :
    t.getError = s.getError := by
  rw [eq_setRunState_of_driverTurn_of_error h he]
  rfl

theorem Reaches.getError_of_error {s t : State} (h : Reaches s t) (he : s.cpuError = .unimplemented) :
    t.getError = s.getError := by
  induction h with
  | refl => rfl
  | tail _ hstep ih =>
    have hcpu := (congrArg Prod.fst ih).trans he
    exact (step_getError_of_error hstep hcpu).trans ih

/-! ## A run on a state that holds the error (R111, R113) -/

/-- A loop whose first turn halts returns that turn's status and state. -/
theorem runLoop_of_halt {finished : State → Bool} {s t : State} {status : Nat}
    (h : driverStepUnder finished s = .next t) (ht : t.runStatus = some status) (turns : Nat) :
    runLoop finished (turns + 1) s = some (status, t) := by
  simp [runLoop, runLoopBy, h, ht]

theorem run_of_error {s : State} (he : s.cpuError = .unimplemented) (finished : State → Bool) (turns : Nat)
    (a : Word) :
    run finished (turns + 1) a s = some (1, { s with pc := a, runState := .haltedError }) := by
  have hturn : driverStepUnder finished (s.beginRun a) = .next ((s.beginRun a).setRunState .haltedError) :=
    driverTurn_of_error (s := s.beginRun a) rfl he _
  exact runLoop_of_halt hturn rfl turns

/-- Settles O45: the error along the steps of a run; a host accessor writes one register of x, sp and v; and
the first turn of a run on the error halts it. -/
theorem stickyError : Obligations.StickyError := by
  refine ⟨fun s t h he => ?_, fun s i j v w => ⟨rfl, rfl, rfl, rfl, rfl⟩,
    fun finished turns a s he => run_of_error he finished turns a⟩
  obtain ⟨hcpu, hcause⟩ := Prod.ext_iff.mp (h.getError_of_error he)
  exact ⟨hcpu.trans he, hcause⟩

end Sys2Proof.Machine

/-! # Proofs about the state at the first tick (spec/70_reset_and_hazards.md) -/

namespace Sys2Proof.Machine

/-! ## The first turn of a run without an error (R111, R196, R197) -/

section FirstTurn

variable {finished : State → Bool} {a : Word} {s : State}

/-- Where a run begins, a satisfied `finished` ends the first turn before any tick. -/
theorem driverStepUnder_beginRun_of_finished (he : s.cpuError = .none) (hf : finished (s.beginRun a) = true) :
    driverStepUnder finished (s.beginRun a) = .next ((s.beginRun a).setRunState .haltedOk) := by
  rw [driverStepUnder, hf]
  exact driverTurn_finished rfl he

/-- Where a run begins, an unsatisfied `finished` makes the first turn a tick. -/
theorem driverStepUnder_beginRun_of_not_finished (he : s.cpuError = .none)
    (hf : finished (s.beginRun a) = false) :
    driverStepUnder finished (s.beginRun a) = tick (s.beginRun a) := by
  rw [driverStepUnder, hf]
  exact driverTurn_tick rfl he

theorem run_of_finished (he : s.cpuError = .none) (hf : finished (s.beginRun a) = true) (turns : Nat) :
    run finished (turns + 1) a s = some (0, { s with pc := a, runState := .haltedOk }) :=
  runLoop_of_halt (driverStepUnder_beginRun_of_finished he hf) rfl turns

/-- The tick a run begins with fetches at the start address. -/
theorem tick_beginRun_of_readInstruction32 {w : Word32} (h : (s.beginRun a).readInstruction32 a = .ok w) :
    tick (s.beginRun a) = tickOnWord w (s.beginRun a) :=
  tick_of_fetch (s := s.beginRun a) h

end FirstTurn

/-- Settles O46: a satisfied `finished` halts the first turn; otherwise that turn is the tick, whose fetch is the
read at the start address. -/
theorem firstTick : Obligations.FirstTick := fun _ turns _ _ he =>
  ⟨fun hf => run_of_finished he hf turns, fun hf _ hw =>
    (driverStepUnder_beginRun_of_not_finished he hf).trans (tick_beginRun_of_readInstruction32 hw)⟩

/-- Settles O47: `beginRun` writes the PC and the run state alone, the error ends the run in its first turn, and
without it that turn is a tick. -/
theorem secondRun : Obligations.SecondRun := fun finished turns a _ =>
  ⟨rfl, fun he => run_of_error he finished turns a, driverStepUnder_beginRun_of_not_finished⟩

/-! ## The fields reset fixes (R190, R193) -/

/-- Settles O49: no open parameter enters the error state or the run state, the start address alone enters the PC,
and `State.reset` takes the model's chosen parameters. -/
theorem resetState : Obligations.ResetState :=
  ⟨fun _ => ⟨rfl, rfl, rfl, rfl⟩, ResetParams.chosen, rfl⟩

end Sys2Proof.Machine

/-! # Proofs about the encoder (spec/30_encoding.md) -/

namespace Sys2Proof

/-! ## The fields of an encoded word (R63, R64) -/

theorem formatDPI_fields (sf op s sh : BitVec 1) (imm12 : BitVec 12) (rn rd : RegIdx) :
    let w := formatDPI sf op s sh imm12 rn rd
    fieldRd w = rd ∧ fieldRn w = rn ∧ fieldImm12 w = imm12 := by
  and_intros <;> refine BitVec.eq_of_getLsbD_eq fun k hk => ?_
  all_goals
    simp only [formatDPI, fieldRd, fieldRn, fieldImm12, BitVec.getLsbD_extractLsb', BitVec.getLsbD_append]
    interval_cases k <;> rfl

theorem formatDPR_fields (sf op s : BitVec 1) (shift : BitVec 2) (rm : RegIdx) (imm6 : BitVec 6)
    (rn rd : RegIdx) :
    let w := formatDPR sf op s shift rm imm6 rn rd
    fieldRd w = rd ∧ fieldRn w = rn ∧ fieldImm6 w = imm6 ∧ fieldRm w = rm ∧ fieldShift w = shift := by
  and_intros <;> refine BitVec.eq_of_getLsbD_eq fun k hk => ?_
  all_goals
    simp only [formatDPR, fieldRd, fieldRn, fieldImm6, fieldRm, fieldShift, BitVec.getLsbD_extractLsb',
      BitVec.getLsbD_append]
    interval_cases k <;> rfl

theorem formatFP2_fields (ftype : BitVec 2) (rm : RegIdx) (opcode : BitVec 4) (rn rd : RegIdx) :
    let w := formatFP2 ftype rm opcode rn rd
    fieldRd w = rd ∧ fieldRn w = rn ∧ fieldRm w = rm := by
  and_intros <;> refine BitVec.eq_of_getLsbD_eq fun k hk => ?_
  all_goals
    simp only [formatFP2, fieldRd, fieldRn, fieldRm, BitVec.getLsbD_extractLsb', BitVec.getLsbD_append]
    interval_cases k <;> rfl

theorem formatLSU_fields (size opc : BitVec 2) (imm12 : BitVec 12) (rn rt : RegIdx) :
    let w := formatLSU size opc imm12 rn rt
    fieldRt w = rt ∧ fieldRn w = rn ∧ fieldImm12 w = imm12 := by
  and_intros <;> refine BitVec.eq_of_getLsbD_eq fun k hk => ?_
  all_goals
    simp only [formatLSU, fieldRt, fieldRn, fieldImm12, BitVec.getLsbD_extractLsb', BitVec.getLsbD_append]
    interval_cases k <;> rfl

theorem fieldImm26_formatBI (op : BitVec 1) (imm26 : BitVec 26) : fieldImm26 (formatBI op imm26) = imm26 :=
  BitVec.extractLsb'_append_eq_right

theorem formatBC_fields (o1 : BitVec 1) (imm19 : BitVec 19) (o0 : BitVec 1) (cond : BitVec 4) :
    let w := formatBC o1 imm19 o0 cond
    fieldCond w = cond ∧ fieldImm19 w = imm19 := by
  and_intros <;> refine BitVec.eq_of_getLsbD_eq fun k hk => ?_
  all_goals
    simp only [formatBC, fieldCond, fieldImm19, BitVec.getLsbD_extractLsb', BitVec.getLsbD_append]
    interval_cases k <;> rfl

theorem fieldRn_formatBR (opc : BitVec 4) (op2 : BitVec 5) (op3 : BitVec 6) (rn : RegIdx) (op4 : BitVec 5) :
    fieldRn (formatBR opc op2 op3 rn op4) = rn :=
  (BitVec.extractLsb'_append_eq_of_le (by decide)).trans BitVec.extractLsb'_append_eq_right

@[simp] theorem ShiftType.ofCode_code (shift : ShiftType) : ShiftType.ofCode shift.code = shift := by
  cases shift <;> rfl

/-! ## Decode after encode -/

theorem decode_encode {i : Instr} (hwf : i.wellFormed = true) : decode (encode i) = .ok i := by
  cases i with
  | subImm rd rn imm12 =>
    obtain ⟨hrd, hrn, himm⟩ := formatDPI_fields 1#1 1#1 0#1 0#1 imm12 rn rd
    rw [decode_of_rowSubImm_accepts (Laws.RowAccepts.subImm rd rn imm12 hwf), encode, hrd, hrn, himm]
  | cmpImm rn imm12 =>
    obtain ⟨-, hrn, himm⟩ := formatDPI_fields 1#1 1#1 1#1 0#1 imm12 rn 31#5
    rw [decode_of_rowCmpImm_accepts (Laws.RowAccepts.cmpImm rn imm12 hwf), encode, hrn, himm]
  | addShifted rd rn rm shift imm6 =>
    obtain ⟨hrd, hrn, himm, hrm, hshift⟩ := formatDPR_fields 1#1 0#1 0#1 shift.code rm imm6 rn rd
    rw [decode_of_rowAddShifted_accepts (Laws.RowAccepts.addShifted rd rn rm shift imm6 hwf), encode, hrd, hrn,
      himm, hrm, hshift, ShiftType.ofCode_code]
  | subShifted rd rn rm shift imm6 =>
    obtain ⟨hrd, hrn, himm, hrm, hshift⟩ := formatDPR_fields 1#1 1#1 0#1 shift.code rm imm6 rn rd
    rw [decode_of_rowSubShifted_accepts (Laws.RowAccepts.subShifted rd rn rm shift imm6 hwf), encode, hrd, hrn,
      himm, hrm, hshift, ShiftType.ofCode_code]
  | fadd rd rn rm =>
    obtain ⟨hrd, hrn, hrm⟩ := formatFP2_fields 0b00#2 rm 0b0010#4 rn rd
    rw [decode_of_rowFadd_accepts (Laws.RowAccepts.fadd rd rn rm hwf), encode, hrd, hrn, hrm]
  | fsub rd rn rm =>
    obtain ⟨hrd, hrn, hrm⟩ := formatFP2_fields 0b00#2 rm 0b0011#4 rn rd
    rw [decode_of_rowFsub_accepts (Laws.RowAccepts.fsub rd rn rm hwf), encode, hrd, hrn, hrm]
  | ldr32 rt rn imm12 =>
    obtain ⟨hrt, hrn, himm⟩ := formatLSU_fields 0b10#2 0b01#2 imm12 rn rt
    rw [decode_of_rowLdr32_accepts (Laws.RowAccepts.ldr32 rt rn imm12 hwf), encode, hrt, hrn, himm]
  | ldr64 rt rn imm12 =>
    obtain ⟨hrt, hrn, himm⟩ := formatLSU_fields 0b11#2 0b01#2 imm12 rn rt
    rw [decode_of_rowLdr64_accepts (Laws.RowAccepts.ldr64 rt rn imm12 hwf), encode, hrt, hrn, himm]
  | str32 rt rn imm12 =>
    obtain ⟨hrt, hrn, himm⟩ := formatLSU_fields 0b10#2 0b00#2 imm12 rn rt
    rw [decode_of_rowStr32_accepts (Laws.RowAccepts.str32 rt rn imm12 hwf), encode, hrt, hrn, himm]
  | str64 rt rn imm12 =>
    obtain ⟨hrt, hrn, himm⟩ := formatLSU_fields 0b11#2 0b00#2 imm12 rn rt
    rw [decode_of_rowStr64_accepts (Laws.RowAccepts.str64 rt rn imm12 hwf), encode, hrt, hrn, himm]
  | b imm26 =>
    rw [decode_of_rowB_accepts (Laws.RowAccepts.b imm26 hwf), encode, fieldImm26_formatBI]
  | bCond c imm19 =>
    obtain ⟨hcond, himm⟩ := formatBC_fields 0#1 imm19 0#1 c.code
    rw [decode_of_rowBCond_accepts (Laws.RowAccepts.bCond c imm19 hwf), encode, hcond, himm, Cond.ofCode_code]
  | ret rn => rw [decode_of_rowRet_accepts (Laws.RowAccepts.ret rn hwf), encode, fieldRn_formatBR]

/-- Settles O3: the encoded word is accepted by the instruction's row, and its fields are the operands. -/
theorem decodeEncodeRoundTrip : Obligations.DecodeEncodeRoundTrip := fun _ => decode_encode

/-! ## Encode after decode -/

/-- Two words that one row accepts are equal if they agree on fields that hold every bit the row leaves open. -/
theorem eq_of_accepts_of_fields {r : OpcodeRow} {w w' : Word32} (hw : r.accepts w = true)
    (hw' : r.accepts w' = true) (fields : List (Nat × Nat))
    (hcover : ∀ k < 32, r.mask.getLsbD k = true ∨ ∃ f ∈ fields, f.1 ≤ k ∧ k < f.1 + f.2)
    (hf : ∀ f ∈ fields, w.extractLsb' f.1 f.2 = w'.extractLsb' f.1 f.2) : w = w' := by
  have hfixed : w &&& r.mask = w' &&& r.mask :=
    (OpcodeRow.fixedBitsMatch_iff.mp (OpcodeRow.fixedBitsMatch_of_accepts hw)).trans
      (OpcodeRow.fixedBitsMatch_iff.mp (OpcodeRow.fixedBitsMatch_of_accepts hw')).symm
  refine BitVec.eq_of_getLsbD_eq fun k hk => ?_
  rcases hcover k hk with hfix | ⟨f, hmem, hlo, hhi⟩
  · simpa [hfix] using congrArg (·.getLsbD k) hfixed
  · have hlen : k - f.1 < f.2 := by omega
    simpa [hlen, Nat.add_sub_cancel' hlo] using congrArg (·.getLsbD (k - f.1)) (hf f hmem)

theorem ShiftType.ofCode_injective : Function.Injective ShiftType.ofCode := by
  intro c d
  revert c d
  decide

theorem Cond.ofCode_injective : Function.Injective Cond.ofCode :=
  Function.LeftInverse.injective Cond.code_ofCode

/-- No two words decode to one instruction: its row fixes the bits that its operands do not hold. -/
theorem decode_injective {w w' : Word32} {i : Instr} (hw : decode w = .ok i) (hw' : decode w' = .ok i) :
    w = w' := by
  have ha := accepts_of_decode_eq_ok hw
  have ha' := accepts_of_decode_eq_ok hw'
  have hd : decode w = decode w' := hw.trans hw'.symm
  cases i with
  | subImm rd rn imm12 =>
    rw [decode_of_rowSubImm_accepts ha, decode_of_rowSubImm_accepts ha'] at hd
    exact eq_of_accepts_of_fields (r := rowSubImm) ha ha' [(0, 5), (5, 5), (10, 12)] (by decide)
      (by simpa [fieldRd, fieldRn, fieldImm12] using hd)
  | cmpImm rn imm12 =>
    rw [decode_of_rowCmpImm_accepts ha, decode_of_rowCmpImm_accepts ha'] at hd
    exact eq_of_accepts_of_fields (r := rowCmpImm) ha ha' [(5, 5), (10, 12)] (by decide)
      (by simpa [fieldRn, fieldImm12] using hd)
  | addShifted rd rn rm shift imm6 =>
    rw [decode_of_rowAddShifted_accepts ha, decode_of_rowAddShifted_accepts ha'] at hd
    exact eq_of_accepts_of_fields (r := rowAddShifted) ha ha'
      [(0, 5), (5, 5), (16, 5), (22, 2), (10, 6)] (by decide)
      (by simpa [fieldRd, fieldRn, fieldRm, fieldShift, fieldImm6, ShiftType.ofCode_injective.eq_iff] using hd)
  | subShifted rd rn rm shift imm6 =>
    rw [decode_of_rowSubShifted_accepts ha, decode_of_rowSubShifted_accepts ha'] at hd
    exact eq_of_accepts_of_fields (r := rowSubShifted) ha ha'
      [(0, 5), (5, 5), (16, 5), (22, 2), (10, 6)] (by decide)
      (by simpa [fieldRd, fieldRn, fieldRm, fieldShift, fieldImm6, ShiftType.ofCode_injective.eq_iff] using hd)
  | fadd rd rn rm =>
    rw [decode_of_rowFadd_accepts ha, decode_of_rowFadd_accepts ha'] at hd
    exact eq_of_accepts_of_fields (r := rowFadd) ha ha' [(0, 5), (5, 5), (16, 5)] (by decide)
      (by simpa [fieldRd, fieldRn, fieldRm] using hd)
  | fsub rd rn rm =>
    rw [decode_of_rowFsub_accepts ha, decode_of_rowFsub_accepts ha'] at hd
    exact eq_of_accepts_of_fields (r := rowFsub) ha ha' [(0, 5), (5, 5), (16, 5)] (by decide)
      (by simpa [fieldRd, fieldRn, fieldRm] using hd)
  | ldr32 rt rn imm12 =>
    rw [decode_of_rowLdr32_accepts ha, decode_of_rowLdr32_accepts ha'] at hd
    exact eq_of_accepts_of_fields (r := rowLdr32) ha ha' [(0, 5), (5, 5), (10, 12)] (by decide)
      (by simpa [fieldRt, fieldRn, fieldImm12] using hd)
  | ldr64 rt rn imm12 =>
    rw [decode_of_rowLdr64_accepts ha, decode_of_rowLdr64_accepts ha'] at hd
    exact eq_of_accepts_of_fields (r := rowLdr64) ha ha' [(0, 5), (5, 5), (10, 12)] (by decide)
      (by simpa [fieldRt, fieldRn, fieldImm12] using hd)
  | str32 rt rn imm12 =>
    rw [decode_of_rowStr32_accepts ha, decode_of_rowStr32_accepts ha'] at hd
    exact eq_of_accepts_of_fields (r := rowStr32) ha ha' [(0, 5), (5, 5), (10, 12)] (by decide)
      (by simpa [fieldRt, fieldRn, fieldImm12] using hd)
  | str64 rt rn imm12 =>
    rw [decode_of_rowStr64_accepts ha, decode_of_rowStr64_accepts ha'] at hd
    exact eq_of_accepts_of_fields (r := rowStr64) ha ha' [(0, 5), (5, 5), (10, 12)] (by decide)
      (by simpa [fieldRt, fieldRn, fieldImm12] using hd)
  | b imm26 =>
    rw [decode_of_rowB_accepts ha, decode_of_rowB_accepts ha'] at hd
    exact eq_of_accepts_of_fields (r := rowB) ha ha' [(0, 26)] (by decide)
      (by simpa [fieldImm26] using hd)
  | bCond c imm19 =>
    rw [decode_of_rowBCond_accepts ha, decode_of_rowBCond_accepts ha'] at hd
    exact eq_of_accepts_of_fields (r := rowBCond) ha ha' [(0, 4), (5, 19)] (by decide)
      (by simpa [fieldCond, fieldImm19, Cond.ofCode_injective.eq_iff] using hd)
  | ret rn =>
    rw [decode_of_rowRet_accepts ha, decode_of_rowRet_accepts ha'] at hd
    exact eq_of_accepts_of_fields (r := rowRet) ha ha' [(5, 5)] (by decide)
      (by simpa [fieldRn] using hd)

/-- Settles O4: the instruction is well-formed, so its encoding decodes to it too, and no other word does. -/
theorem encodeDecodeRoundTrip : Obligations.EncodeDecodeRoundTrip := fun _ _ h =>
  ⟨decode_wellFormed h, decode_injective (decode_encode (decode_wellFormed h)) h⟩

/-- Settles O1: each word is in the row of its family, and its fields are the operands. -/
theorem sampleWordsDecode : Obligations.SampleWordsDecode := by
  and_intros
  · exact decode_of_rowSubImm_accepts (by decide)
  · exact decode_of_rowCmpImm_accepts (by decide)
  · exact decode_of_rowAddShifted_accepts (by decide)
  · exact decode_of_rowSubShifted_accepts (by decide)
  · exact decode_of_rowFadd_accepts (by decide)
  · exact decode_of_rowFsub_accepts (by decide)
  · exact decode_of_rowLdr32_accepts (by decide)
  · exact decode_of_rowLdr64_accepts (by decide)
  · exact decode_of_rowStr32_accepts (by decide)
  · exact decode_of_rowStr64_accepts (by decide)
  · exact decode_of_rowB_accepts (by decide)
  · exact decode_of_rowBCond_accepts (by decide)
  · exact decode_of_rowRet_accepts (by decide)

end Sys2Proof

/-! # Proofs about the memory collaborator and its requests (spec/20_memory.md) -/

namespace Sys2Proof.Machine

/-! ## The memory stage on a request that is not accepted (R47, R99) -/

/-- The request a memory control asks for (R99). -/
def MemControl.requestKind : MemControl → Option RequestKind
  | .read32 => some .read32
  | .read64 => some .read64
  | .write32 => some .write32
  | .write64 => some .write64
  | .none => Option.none
  | .unsupported _ => Option.none

theorem MemControl.eq_unsupported_of_code_mem {ctl : MemControl} (h : ctl.code ∈ [5#3, 6#3, 7#3]) :
    ∃ k, ctl = .unsupported k := by
  cases ctl with
  | unsupported k => exact ⟨k, rfl⟩
  | _ => exact absurd h (by decide)

theorem StageResult.ofPort_request_andThen_of_not_admit {α β : Type} {s : State} {k : RequestKind} {a : Word}
    (h : s.memAdmit k a = false) (r : α) (next : α → StageResult β) :
    (StageResult.ofPort (s.request k a r)).andThen next = .stuck (.memoryRequestNotAdmitted k a) := by
  rw [State.request_of_not_admit h]
  rfl

/-- What holds of an accepted and of a refused request, as one equation. -/
theorem eq_ite_of_eq {α : Type} {b : Bool} {x y z : α} (ht : b = true → x = y) (hf : b = false → x = z) :
    x = if b then y else z := by
  cases b with
  | true => exact ht rfl
  | false => exact hf rfl

section Requests

variable (c : Collaborator) (dest : Loc) {ctl : MemControl} {k : RequestKind} {a : Word} {s : State}

/-- A request that is not accepted leaves the memory stage stuck (R47). -/
theorem memoryStageWith_of_not_admit (hk : ctl.requestKind = some k) (h : s.memAdmit k a = false) :
    memoryStageWith c ctl dest a s = .stuck (.memoryRequestNotAdmitted k a) := by
  cases ctl <;> cases hk <;> exact StageResult.ofPort_request_andThen_of_not_admit h _ _

/-- Latches whose execute stage changes nothing and whose request is not accepted give no step (R47). -/
theorem finishTickWith_of_not_admit {l : Latches} (hk : l.memControl.requestKind = some k)
    (he : executeStage l s = .done (a, s)) (h : s.memAdmit k a = false) :
    finishTickWith c l s = .fault (.memoryRequestNotAdmitted k a) := by
  simp [finishTickWith, he, memoryStageWith_of_not_admit c l.destination hk h, StageResult.andThen,
    StageResult.outcome]

variable (a s)

theorem memoryStageWith_read32_eq : memoryStageWith c .read32 dest a s =
    if s.memAdmit .read32 a then
      .done (some ((c.readData32 s.mem a).1.setWidth 64), s.setMem (c.readData32 s.mem a).2)
    else .stuck (.memoryRequestNotAdmitted .read32 a) :=
  eq_ite_of_eq (memoryStageWith_read32 c dest) (memoryStageWith_of_not_admit c dest rfl)

theorem memoryStageWith_read64_eq : memoryStageWith c .read64 dest a s =
    if s.memAdmit .read64 a then
      .done (some (c.readData64 s.mem a).1, s.setMem (c.readData64 s.mem a).2)
    else .stuck (.memoryRequestNotAdmitted .read64 a) :=
  eq_ite_of_eq (memoryStageWith_read64 c dest) (memoryStageWith_of_not_admit c dest rfl)

theorem memoryStageWith_write32_eq : memoryStageWith c .write32 dest a s =
    if s.memAdmit .write32 a then
      .done (none, s.setMem (c.writeData32 s.mem a ((s.readLoc dest).extractLsb' 0 32)))
    else .stuck (.memoryRequestNotAdmitted .write32 a) :=
  eq_ite_of_eq (memoryStageWith_write32 c dest) (memoryStageWith_of_not_admit c dest rfl)

theorem memoryStageWith_write64_eq : memoryStageWith c .write64 dest a s =
    if s.memAdmit .write64 a then
      .done (none, s.setMem (c.writeData64 s.mem a (s.readLoc dest)))
    else .stuck (.memoryRequestNotAdmitted .write64 a) :=
  eq_ite_of_eq (memoryStageWith_write64 c dest) (memoryStageWith_of_not_admit c dest rfl)

end Requests

/-! ## A load or a store whose request is not accepted (R152 to R155, R47) -/

section LoadStoreRefused

variable (c : Collaborator) (rt : RegIdx) {rn : RegIdx} {imm12 : BitVec 12} {s : State}

theorem execLdr32With_of_not_admit (h : s.memAdmit .read32 (s.xOrSp rn + offset32 imm12) = false) :
    execLdr32With c rt rn imm12 s =
      .fault (.memoryRequestNotAdmitted .read32 (s.xOrSp rn + offset32 imm12)) :=
  finishTickWith_of_not_admit c rfl rfl h

theorem execLdr64With_of_not_admit (h : s.memAdmit .read64 (s.xOrSp rn + offset64 imm12) = false) :
    execLdr64With c rt rn imm12 s =
      .fault (.memoryRequestNotAdmitted .read64 (s.xOrSp rn + offset64 imm12)) :=
  finishTickWith_of_not_admit c rfl rfl h

theorem execStr32With_of_not_admit (h : s.memAdmit .write32 (s.xOrSp rn + offset32 imm12) = false) :
    execStr32With c rt rn imm12 s =
      .fault (.memoryRequestNotAdmitted .write32 (s.xOrSp rn + offset32 imm12)) :=
  finishTickWith_of_not_admit c rfl rfl h

theorem execStr64With_of_not_admit (h : s.memAdmit .write64 (s.xOrSp rn + offset64 imm12) = false) :
    execStr64With c rt rn imm12 s =
      .fault (.memoryRequestNotAdmitted .write64 (s.xOrSp rn + offset64 imm12)) :=
  finishTickWith_of_not_admit c rfl rfl h

end LoadStoreRefused

/-- Settles O55: each of the four by its equation where the request is accepted, and by the stuck memory stage
where it is not; a loaded value goes to a register or the zero register. -/
theorem loadsAndStoresOnEveryCollaborator : Obligations.LoadsAndStoresOnEveryCollaborator := by
  intro c rt rn imm12 s
  refine ⟨eq_ite_of_eq (fun h => (execLdr32With_of_admit c rt h).trans ?_) (execLdr32With_of_not_admit c rt),
    eq_ite_of_eq (fun h => (execLdr64With_of_admit c rt h).trans ?_) (execLdr64With_of_not_admit c rt),
    eq_ite_of_eq (execStr32With_of_admit c rt) (execStr32With_of_not_admit c rt),
    eq_ite_of_eq (execStr64With_of_admit c rt) (execStr64With_of_not_admit c rt)⟩
  all_goals
    simp only [State.setPc_writeLoc_gprOrZr]
    rfl

/-! ## Refused requests on the reference memory (R47) -/

theorem State.memAdmit_of_memRefused_nil {s : State} (h : s.memRefused = []) (k : RequestKind) (a : Word) :
    s.memAdmit k a = true := by
  simp [State.memAdmit, h]

theorem State.fetch_of_admit {s : State} (h : s.memAdmit .fetch32 s.pc = true) :
    s.fetch = .ok (s.mem.read32 s.pc) := State.readInstruction32_of_admit h

theorem State.fetch_of_not_admit {s : State} (h : s.memAdmit .fetch32 s.pc = false) :
    s.fetch = .error (.memoryRequestNotAdmitted .fetch32 s.pc) :=
  (s.readInstruction32_eq s.pc).trans (State.request_of_not_admit h)

/-- A step of a running machine without an error and without the completion signal is a tick, one sample used. -/
theorem step_eq_tick {s : State} (hr : s.runState = .running) (he : s.cpuError = .none)
    (hf : s.finishedNow = false) : step s = tick s.dropFinishedSample := by
  rw [step, driverStep, hf]
  exact driverTurn_tick hr he

/-- Settles O28: a load or a store is stuck in its memory stage, a fetch before the rest of the tick. -/
theorem refusedRequestLeavesNoStep : Obligations.RefusedRequestLeavesNoStep :=
  ⟨fun _ h => State.memAdmit_of_memRefused_nil h,
    fun rt _ _ _ => ⟨execLdr32With_of_not_admit _ rt, execLdr64With_of_not_admit _ rt,
      execStr32With_of_not_admit _ rt, execStr64With_of_not_admit _ rt⟩,
    fun _ hr he hf h => (step_eq_tick hr he hf).trans (tick_of_fetch_error (State.fetch_of_not_admit h))⟩

/-! ## What an instruction leaves of memory and of the model's inputs (R42, logs 4, 6, 7) -/

/-- Only a load or a store is latched with a request, and the request is of its kind (R93). -/
theorem loadStore_of_requestKind {i : Instr} {s : State} {l : Latches} {k : RequestKind}
    (hl : latchInstr i s = some l) (hk : l.memControl.requestKind = some k) :
    (∃ rt rn imm12, i = .ldr32 rt rn imm12 ∧ k = .read32) ∨
      (∃ rt rn imm12, i = .ldr64 rt rn imm12 ∧ k = .read64) ∨
      (∃ rt rn imm12, i = .str32 rt rn imm12 ∧ k = .write32) ∨
      (∃ rt rn imm12, i = .str64 rt rn imm12 ∧ k = .write64) := by
  cases i with
  | ldr32 rt rn imm12 => cases hl; cases hk; exact .inl ⟨rt, rn, imm12, rfl, rfl⟩
  | ldr64 rt rn imm12 => cases hl; cases hk; exact .inr (.inl ⟨rt, rn, imm12, rfl, rfl⟩)
  | str32 rt rn imm12 => cases hl; cases hk; exact .inr (.inr (.inl ⟨rt, rn, imm12, rfl, rfl⟩))
  | str64 rt rn imm12 => cases hl; cases hk; exact .inr (.inr (.inr ⟨rt, rn, imm12, rfl, rfl⟩))
  | addShifted rd rn rm shift imm6 => obtain ⟨b, -, rfl⟩ := Option.map_eq_some_iff.mp hl; cases hk
  | subShifted rd rn rm shift imm6 => obtain ⟨b, -, rfl⟩ := Option.map_eq_some_iff.mp hl; cases hk
  | bCond cond imm19 => obtain ⟨taken, -, rfl⟩ := Option.map_eq_some_iff.mp hl; cases hk
  | _ => cases hl; cases hk

/-- A tick on supported latches writes memory by the one store its control names, or leaves it. -/
theorem finishTick_mem {l : Latches} {s t : State} (hl : l.supported) (h : finishTick l s = .next t) :
    t.mem = s.mem ∨ (l.memControl = .write32 ∧ ∃ a v, t.mem = s.mem.write32 a v) ∨
      (l.memControl = .write64 ∧ ∃ a v, t.mem = s.mem.write64 a v) := by
  obtain ⟨r, s₁, d, s₂, s₃, he, hm, hw, rfl⟩ := finishTick_next hl h
  have h₁ : s₁.mem = s.mem := by
    rcases executeStage_done he with rfl | ⟨-, -, rfl⟩ <;> simp [State.writeSubFlags]
  have h₃ : s₃.mem = s₂.mem := by rcases writeBackStage_done hw with rfl | rfl <;> simp
  have h₄ : (advancePc l.wbControl l.destination s₃).mem = s₂.mem := by
    rcases advancePc_cases l.wbControl l.destination s₃ with h₄ | h₄ <;> simp [h₄, h₃]
  rw [h₄, ← h₁]
  rcases memoryStage_done hm with rfl | ⟨hc, rfl⟩ | ⟨hc, rfl⟩
  · exact .inl rfl
  · exact .inr (.inl ⟨hc, _, _, rfl⟩)
  · exact .inr (.inr ⟨hc, _, _, rfl⟩)

/-- A tick on supported latches leaves the fields that stand for `mem_admit` and `finished` (logs 6, 7). -/
theorem finishTick_inputs {l : Latches} {s t : State} (hl : l.supported) (h : finishTick l s = .next t) :
    t.memRefused = s.memRefused ∧ t.finishedInput = s.finishedInput := by
  obtain ⟨r, s₁, d, s₂, s₃, he, hm, hw, rfl⟩ := finishTick_next hl h
  have h₁ : s₁.memRefused = s.memRefused ∧ s₁.finishedInput = s.finishedInput := by
    rcases executeStage_done he with rfl | ⟨-, -, rfl⟩ <;> simp [State.writeSubFlags]
  have h₂ : s₂.memRefused = s₁.memRefused ∧ s₂.finishedInput = s₁.finishedInput := by
    rcases memoryStage_done hm with rfl | ⟨-, rfl⟩ | ⟨-, rfl⟩ <;> simp
  have h₃ : s₃.memRefused = s₂.memRefused ∧ s₃.finishedInput = s₂.finishedInput := by
    rcases writeBackStage_done hw with rfl | rfl <;> simp
  rcases advancePc_cases l.wbControl l.destination s₃ with h₄ | h₄ <;> simp [h₄, h₃, h₂, h₁]

theorem exec_inputs {i : Instr} {s t : State} (h : exec i s = .next t) :
    t.memRefused = s.memRefused ∧ t.finishedInput = s.finishedInput := by
  rcases exec_next h with ⟨-, rfl⟩ | ⟨l, hl, ht⟩
  · simp
  · exact finishTick_inputs (supported_of_latchInstr hl) ht

/-- An instruction other than a store leaves memory as it was. -/
theorem exec_mem {i : Instr} {s t : State}
    (hi : ∀ rt rn imm12, i ≠ .str32 rt rn imm12 ∧ i ≠ .str64 rt rn imm12) (h : exec i s = .next t) :
    t.mem = s.mem := by
  rcases exec_next h with ⟨-, rfl⟩ | ⟨l, hl, ht⟩
  · simp
  · rcases finishTick_mem (supported_of_latchInstr hl) ht with hmem | ⟨hc, -⟩ | ⟨hc, -⟩
    · exact hmem
    · rcases loadStore_of_requestKind hl (k := .write32) (by rw [hc]; rfl) with
          ⟨_, _, _, -, ⟨⟩⟩ | ⟨_, _, _, -, ⟨⟩⟩ | ⟨rt, rn, imm12, rfl, -⟩ | ⟨_, _, _, -, ⟨⟩⟩
      exact absurd rfl (hi rt rn imm12).1
    · rcases loadStore_of_requestKind hl (k := .write64) (by rw [hc]; rfl) with
          ⟨_, _, _, -, ⟨⟩⟩ | ⟨_, _, _, -, ⟨⟩⟩ | ⟨_, _, _, -, ⟨⟩⟩ | ⟨rt, rn, imm12, rfl, -⟩
      exact absurd rfl (hi rt rn imm12).2

/-- Settles O41: stage by stage, only the memory stage writes memory, and that on the latches of a store; no stage
writes the two fields of the model. -/
theorem onlyStoresChangeMemory : Obligations.OnlyStoresChangeMemory := by
  intro i s t h
  obtain ⟨hrefused, hfinished⟩ := exec_inputs h
  exact ⟨hrefused, hfinished, fun hi => exec_mem hi h⟩

/-! ## The requests of a tick on every collaborator (R42, R99) -/

section Tick

variable (c : Collaborator)

/-- The fetch is one request at the PC, and the rest of the tick runs on what it answers and leaves (R91). -/
theorem tickWith_eq (s : State) : tickWith c s =
    if s.memAdmit .fetch32 s.pc then
      tickOnWordWith c (c.readInstruction32 s.mem s.pc).1 (s.setMem (c.readInstruction32 s.mem s.pc).2)
    else .fault (.memoryRequestNotAdmitted .fetch32 s.pc) := by
  unfold tickWith State.fetchWith State.readInstruction32With State.request
  split <;> rfl

theorem tickOnWordWith_of_decode_error {w : Word32} {e : DecodeError} (h : decode w = .error e) (s : State) :
    tickOnWordWith c w s = .next (s.raise .unimplementedInstruction) := by
  simp [tickOnWordWith, tickOnWordBy, h]

/-- A failing execute stage has changed nothing, and no stage runs after it (R104). -/
theorem finishTickWith_of_executeStage_failed {l : Latches} {s t : State} {f : Cause}
    (h : executeStage l s = .failed f t) :
    finishTickWith c l s = .next (s.raise .unimplementedALUControl) := by
  obtain ⟨rfl, rfl⟩ := executeStage_failed h
  simp [finishTickWith, h, StageResult.andThen, StageResult.outcome]

/-- Only a load or a store depends on the collaborator (R42). -/
theorem execWith_eq_exec {i : Instr} (hi : ∀ rt rn imm12, i ≠ .ldr32 rt rn imm12 ∧ i ≠ .ldr64 rt rn imm12 ∧
      i ≠ .str32 rt rn imm12 ∧ i ≠ .str64 rt rn imm12) (s : State) : execWith c i s = exec i s := by
  cases i with
  | ldr32 rt rn imm12 => exact absurd rfl (hi rt rn imm12).1
  | ldr64 rt rn imm12 => exact absurd rfl (hi rt rn imm12).2.1
  | str32 rt rn imm12 => exact absurd rfl (hi rt rn imm12).2.2.1
  | str64 rt rn imm12 => exact absurd rfl (hi rt rn imm12).2.2.2
  | _ => rfl

end Tick

/-- Settles O54: the equations of the fetch, of a failing decode and execute, and of the memory stage by its
control; the instructions that depend on the collaborator are the loads and the stores. -/
theorem requestsOfEveryCollaborator : Obligations.RequestsOfEveryCollaborator := by
  refine fun c => ⟨tickWith_eq c, fun w s ⟨e, he⟩ => tickOnWordWith_of_decode_error c he s,
    fun l s t f => finishTickWith_of_executeStage_failed c,
    fun dest a s => ⟨rfl, memoryStageWith_read32_eq c dest a s, memoryStageWith_read64_eq c dest a s,
      memoryStageWith_write32_eq c dest a s, memoryStageWith_write64_eq c dest a s, fun ctl hctl => ?_⟩,
    fun i s hi => ⟨execWith_eq_exec c hi s, fun t ht => ?_⟩⟩
  · obtain ⟨k, rfl⟩ := MemControl.eq_unsupported_of_code_mem hctl
    rfl
  · rw [execWith_eq_exec c hi] at ht
    exact exec_mem (fun rt rn imm12 => (hi rt rn imm12).2.2) ht

/-- The driver of the machine is the driver on the reference memory. -/
theorem driverTurnWith_reference (b : Bool) (s : State) : driverTurnWith .reference b s = driverTurn b s := by
  rw [driverTurnWith, driverTurn, funext tickWith_reference]

theorem driverStepUnderWith_reference (finished : State → Bool) (s : State) :
    driverStepUnderWith .reference finished s = driverStepUnder finished s :=
  driverTurnWith_reference (finished s) s

/-- Settles O53: each definition of the machine is the one that takes the collaborator, from `exec` up. -/
theorem collaboratorIsAParameter : Obligations.CollaboratorIsAParameter := by
  refine ⟨fun i s => (execWith_reference i s).symm, fun w s => (tickOnWordWith_reference w s).symm,
    fun s => (tickWith_reference s).symm, fun s => (driverTurnWith_reference _ _).symm,
    fun finished s => (driverStepUnderWith_reference finished s).symm, fun finished turns a s => ?_⟩
  rw [run, runLoop, runWith, funext (driverStepUnderWith_reference finished)]

end Sys2Proof.Machine

/-! # Proofs about the bytes of the reference memory (spec/20_memory.md R45, R52, R55) -/

namespace Sys2Proof.Machine

/-! ## Bytes of a value (R45) -/

theorem length_bytesOfWord32_le (v : Word32) : (bytesOfWord32 v).length ≤ 2 ^ 64 := show 4 ≤ 2 ^ 64 by decide

theorem length_bytesOfWord_le (v : Word) : (bytesOfWord v).length ≤ 2 ^ 64 := show 8 ≤ 2 ^ 64 by decide

/-- Byte `k` of a 32-bit value. -/
theorem getElem_bytesOfWord32 (v : Word32) {k : Nat} (hk : k < 4) :
    (bytesOfWord32 v)[k]'hk = v.extractLsb' (8 * k) 8 := by
  interval_cases k <;> rfl

/-- Byte `k` of a 64-bit value. -/
theorem getElem_bytesOfWord (v : Word) {k : Nat} (hk : k < 8) :
    (bytesOfWord v)[k]'hk = v.extractLsb' (8 * k) 8 := by
  interval_cases k <;> rfl

/-- Byte `k` of a 32-bit read is the byte at the address plus `k`. -/
theorem extractLsb'_read32 (m : Memory) (a : Word) {k : Nat} (hk : k < 4) :
    (m.read32 a).extractLsb' (8 * k) 8 = m.byteAt a k := by
  refine BitVec.eq_of_getLsbD_eq fun j hj => ?_
  simp only [Memory.read32, wordOfBytes, BitVec.getLsbD_extractLsb', BitVec.getLsbD_append]
  interval_cases k <;> interval_cases j <;> rfl

theorem extractLsb'_read64 (m : Memory) (a : Word) {k : Nat} (hk : k < 8) :
    (m.read64 a).extractLsb' (8 * k) 8 = m.byteAt a k := by
  refine BitVec.eq_of_getLsbD_eq fun j hj => ?_
  simp only [Memory.read64, BitVec.getLsbD_extractLsb', BitVec.getLsbD_append]
  interval_cases k <;> interval_cases j <;> rfl

/-- A slice of a slice is a slice. -/
theorem extractLsb'_extractLsb'_eq {w i n j m : Nat} (v : BitVec w) (h : j + m ≤ n) :
    (v.extractLsb' i n).extractLsb' j m = v.extractLsb' (i + j) m := by
  refine BitVec.eq_of_getLsbD_eq fun k hk => ?_
  have hin : j + k < n := by omega
  simp [hk, hin, Nat.add_assoc]

/-- Two values with the same bytes are equal. -/
theorem eq_of_extractLsb'_bytes {n : Nat} {v w : BitVec (8 * n)}
    (h : ∀ k < n, v.extractLsb' (8 * k) 8 = w.extractLsb' (8 * k) 8) : v = w := by
  refine BitVec.eq_of_getLsbD_eq fun j hj => ?_
  have hbit := congrArg (·.getLsbD (j % 8)) (h (j / 8) (by omega))
  have hlt : j % 8 < 8 := Nat.mod_lt _ (by decide)
  simpa [hlt, Nat.div_add_mod] using hbit

/-- Settles O25: byte by byte; an accepted request answers the value, and nothing refused accepts every request. -/
theorem readsAreLittleEndian : Obligations.ReadsAreLittleEndian := fun s a =>
  ⟨fun _ hk => extractLsb'_read32 s.mem a hk, fun _ hk => extractLsb'_read64 s.mem a hk,
    State.readInstruction32_of_admit, State.readData32_of_admit, State.readData64_of_admit,
    fun h k => State.memAdmit_of_memRefused_nil h k a⟩

/-! ## Bytes after a write (R45) -/

section Written

variable {m : Memory} (hm : m.wf = true) (a : Word)

include hm

theorem byteAt_writeBytes {bs : List Byte} (hbs : bs.length ≤ 2 ^ 64) {k : Nat} (hk : k < bs.length) :
    (m.writeBytes a bs).byteAt a k = bs[k] := by
  have hoff : (a + BitVec.ofNat 64 k - a).toNat = k := by
    rw [BitVec.add_comm, BitVec.add_sub_cancel, BitVec.toNat_ofNat]
    exact Nat.mod_eq_of_lt (by omega)
  rw [Memory.byteAt, Memory.readByte_writeBytes hm a bs hbs, dif_pos (by omega)]
  simp only [hoff]

theorem byteAt_write32 (v : Word32) {k : Nat} (hk : k < 4) :
    (m.write32 a v).byteAt a k = v.extractLsb' (8 * k) 8 :=
  (byteAt_writeBytes hm a (length_bytesOfWord32_le v) hk).trans (getElem_bytesOfWord32 v hk)

theorem byteAt_write64 (v : Word) {k : Nat} (hk : k < 8) :
    (m.write64 a v).byteAt a k = v.extractLsb' (8 * k) 8 :=
  (byteAt_writeBytes hm a (length_bytesOfWord_le v) hk).trans (getElem_bytesOfWord v hk)

/-- A 32-bit read after a 32-bit write of the address gives the value written (R52). -/
theorem read32_write32 (v : Word32) : (m.write32 a v).read32 a = v :=
  eq_of_extractLsb'_bytes (n := 4) fun _ hk =>
    (extractLsb'_read32 _ a hk).trans (byteAt_write32 hm a v hk)

theorem read64_write64 (v : Word) : (m.write64 a v).read64 a = v :=
  eq_of_extractLsb'_bytes (n := 8) fun _ hk =>
    (extractLsb'_read64 _ a hk).trans (byteAt_write64 hm a v hk)

/-- A 32-bit read inside the bytes of a 64-bit write gives the bits written there (R55). -/
theorem read32_write64 (v : Word) {j : Nat} (hj : j ≤ 4) :
    (m.write64 a v).read32 (a + BitVec.ofNat 64 j) = v.extractLsb' (8 * j) 32 := by
  refine eq_of_extractLsb'_bytes (n := 4) fun k hk => ?_
  have hbyte : (m.write64 a v).byteAt (a + BitVec.ofNat 64 j) k = (m.write64 a v).byteAt a (j + k) := by
    rw [Memory.byteAt, Memory.byteAt, BitVec.add_assoc, BitVec.ofNat_add]
  rw [extractLsb'_read32 _ _ hk, hbyte, byteAt_write64 hm a v (by omega), Nat.mul_add,
    extractLsb'_extractLsb'_eq v (by omega)]

theorem readByte_write32_outside (v : Word32) {x : Word} (hx : ¬ inBytes a 4 x) :
    (m.write32 a v).readByte x.toNat = m.readByte x.toNat :=
  Memory.readByte_writeBytes_outside hm a _ (length_bytesOfWord32_le v) x (Nat.le_of_not_lt hx)

theorem readByte_write64_outside (v : Word) {x : Word} (hx : ¬ inBytes a 8 x) :
    (m.write64 a v).readByte x.toNat = m.readByte x.toNat :=
  Memory.readByte_writeBytes_outside hm a _ (length_bytesOfWord_le v) x (Nat.le_of_not_lt hx)

end Written

/-! ## A store that answers a next state (R154, R155) -/

section StoreNext

variable {rt rn : RegIdx} {imm12 : BitVec 12} {s t : State}

/-- A store that answers next was accepted, and the next state is the one of its equation. -/
theorem exec_str32_next (h : exec (.str32 rt rn imm12) s = .next t) :
    t = (s.setMem (s.mem.write32 (s.xOrSp rn + offset32 imm12)
      ((s.xOrZr rt).extractLsb' 0 32))).setPc (s.pc + 4#64) := by
  cases hadm : s.memAdmit .write32 (s.xOrSp rn + offset32 imm12) with
  | true => cases h.symm.trans (exec_str32 rt hadm); rfl
  | false => cases h.symm.trans (execStr32With_of_not_admit .reference rt hadm)

theorem exec_str64_next (h : exec (.str64 rt rn imm12) s = .next t) :
    t = (s.setMem (s.mem.write64 (s.xOrSp rn + offset64 imm12) (s.xOrZr rt))).setPc (s.pc + 4#64) := by
  cases hadm : s.memAdmit .write64 (s.xOrSp rn + offset64 imm12) with
  | true => cases h.symm.trans (exec_str64 rt hadm); rfl
  | false => cases h.symm.trans (execStr64With_of_not_admit .reference rt hadm)

end StoreNext

/-- Settles O24: a store's next state holds the memory of one write, whose bytes are those of the data. -/
theorem storesWriteExactlyTheirBytes : Obligations.StoresWriteExactlyTheirBytes := by
  refine fun rt rn imm12 s hm => ⟨fun t h => ?_, fun t h => ?_⟩
  · rw [exec_str32_next h]
    exact ⟨fun k hk => (byteAt_write32 hm _ _ hk).trans
        (BitVec.extractLsb'_extractLsb'_of_le (show 8 * k + 8 ≤ 32 by omega)),
      fun a ha => readByte_write32_outside hm _ _ ha⟩
  · rw [exec_str64_next h]
    exact ⟨fun k hk => byteAt_write64 hm _ _ hk, fun a ha => readByte_write64_outside hm _ _ ha⟩

/-- Settles O26: an accepted write leaves the memory of that write, and a read of its address gives the value. -/
theorem loadAfterStoreReturnsValue : Obligations.LoadAfterStoreReturnsValue := by
  refine fun s a hm => ⟨fun v t h hr => ?_, fun v t h hr => ?_⟩
  · obtain ⟨-, rfl⟩ := State.request_eq_ok.mp h
    rw [State.readData32_of_admit hr]
    exact congrArg _ (read32_write32 hm a v)
  · obtain ⟨-, rfl⟩ := State.request_eq_ok.mp h
    rw [State.readData64_of_admit hr]
    exact congrArg _ (read64_write64 hm a v)

/-- Settles O27: the fetch reads the memory the store left, at the address stored or four bytes above it. -/
theorem storeIsSeenByNextFetch : Obligations.StoreIsSeenByNextFetch := by
  intro rt rn imm12 s t hm hadm
  rw [State.fetch_of_admit hadm]
  refine ⟨fun h ha => ?_, fun h ha => ?_, fun h ha => ?_⟩ <;> refine congrArg Except.ok ?_
  · have hmem := congrArg State.mem (exec_str32_next h)
    rw [hmem, ← ha]
    exact read32_write32 hm _ _
  · have hmem := congrArg State.mem (exec_str64_next h)
    rw [hmem, ← BitVec.add_zero (x := t.pc), ← ha]
    exact read32_write64 hm _ (s.xOrZr rt) (Nat.zero_le 4)
  · have hmem := congrArg State.mem (exec_str64_next h)
    have hpc : t.pc = s.xOrSp rn + offset64 imm12 + 4#64 :=
      (BitVec.eq_sub_iff_add_eq.mp ha).symm
    rw [hmem, hpc]
    exact read32_write64 hm _ (s.xOrZr rt) (Nat.le_refl 4)

end Sys2Proof.Machine

/-! # Proofs about what every instruction and every step keeps -/

namespace Sys2Proof.Machine

/-! ## Instructions that no word decodes to (log 14) -/

/-- An instruction that is not well-formed has no latches, so it fails decode (R173). -/
theorem exec_of_not_wellFormed {i : Instr} (h : i.wellFormed = false) (s : State) :
    exec i s = .next (s.raise .unimplementedInstruction) := by
  have hnone : latchInstr i s = none := by
    rw [← Option.not_isSome_iff_eq_none, isSome_latchInstr, h]
    exact Bool.false_ne_true
  rw [exec_eq_finishDecoded, hnone]
  rfl

/-- Settles O13: shift code 11 and a condition that needs a carry flag are not well-formed. -/
theorem undecodableFormsRaise : Obligations.UndecodableFormsRaise :=
  ⟨fun _ _ _ _ s => ⟨exec_of_not_wellFormed rfl s, exec_of_not_wellFormed rfl s⟩,
    fun cond imm19 s h => exec_of_not_wellFormed (i := .bCond cond imm19) h s⟩

/-! ## The residue of the PC modulo 4 (R46) -/

/-- Adding a multiple of 4 keeps the residue modulo 4, though the sum wraps. -/
theorem toNat_add_mod_four (a : Word) {b : Word} (hb : b.toNat % 4 = 0) :
    (a + b).toNat % 4 = a.toNat % 4 := by
  rw [BitVec.toNat_add]
  omega

theorem toNat_shiftLeft_two_mod_four (v : Word) : (v <<< 2).toNat % 4 = 0 := by
  rw [BitVec.toNat_shiftLeft, Nat.shiftLeft_eq]
  omega

/-- Settles O34: the PC stays, advances by 4, or moves by an offset shifted left by 2. -/
theorem onlyRetChangesPcResidue : Obligations.OnlyRetChangesPcResidue := by
  intro i s t hret h
  cases hwf : i.wellFormed with
  | false =>
    cases h.symm.trans (exec_of_not_wellFormed hwf s)
    rfl
  | true =>
    cases i with
    | ret rn => exact absurd rfl (hret rn)
    | b imm26 =>
      cases h.symm.trans (exec_b imm26 s)
      exact toNat_add_mod_four s.pc (toNat_shiftLeft_two_mod_four _)
    | bCond c imm19 =>
      obtain ⟨taken, hc⟩ := Option.isSome_iff_exists.mp ((s.isSome_condHolds c).trans hwf)
      cases h.symm.trans (exec_bCond imm19 hc)
      cases taken with
      | true => exact toNat_add_mod_four s.pc (toNat_shiftLeft_two_mod_four _)
      | false => exact toNat_add_mod_four s.pc rfl
    | _ =>
      rw [exec_pc_of_not_branch hwf nofun nofun nofun h]
      exact toNat_add_mod_four s.pc rfl

/-! ## The first failing stage (R104, R175) -/

theorem WbControl.eq_unsupported_of_code_mem {ctl : WbControl} (h : ctl.code ∈ [2#2, 3#2]) :
    ∃ k, ctl = .unsupported k := by
  cases ctl with
  | unsupported k => exact ⟨k, rfl⟩
  | _ => exact absurd h (by decide)

section FailingStage

variable {l : Latches} {s s₁ : State} {r : Word} (he : executeStage l s = .done (r, s₁))

include he

/-- After execute, a failing memory stage ends the tick. -/
theorem finishTick_of_memoryStage_failed {c : Cause} {t : State}
    (hm : memoryStage l.memControl l.destination r s₁ = .failed c t) : finishTick l s = .next (t.raise c) := by
  rw [memoryStage] at hm
  simp [finishTick, finishTickWith, he, hm, StageResult.andThen, StageResult.outcome]

/-- After execute and memory, a failing write-back stage ends the tick. -/
theorem finishTick_of_writeBackStage_failed {d : Option Word} {s₂ t : State} {c : Cause}
    (hm : memoryStage l.memControl l.destination r s₁ = .done (d, s₂))
    (hw : writeBackStage l.wbControl l.destination (committedValue l.memToReg r d) s₂ = .failed c t) :
    finishTick l s = .next (t.raise c) := by
  rw [memoryStage] at hm
  simp [finishTick, finishTickWith, he, hm, hw, StageResult.andThen, StageResult.outcome]

end FailingStage

/-- Settles O39: a code from 5 on fails the memory stage, a code from 2 on the write-back stage, each on the state
the stages before it left. -/
theorem firstFailingStageEndsTick : Obligations.FirstFailingStageEndsTick := by
  refine fun l s s₁ r he => ⟨fun hcode => ?_, fun d s₂ hm hcode => ?_⟩
  · obtain ⟨k, hk⟩ := MemControl.eq_unsupported_of_code_mem hcode
    exact finishTick_of_memoryStage_failed he (by rw [hk]; rfl)
  · obtain ⟨k, hk⟩ := WbControl.eq_unsupported_of_code_mem hcode
    exact finishTick_of_writeBackStage_failed he hm (by rw [hk]; rfl)

/-! ## Supported latches never fail a stage (R92) -/

/-- The execute stage of supported latches is done, and requests are accepted after it as before. -/
theorem executeStage_of_supported {l : Latches} (hl : l.supported) (s : State) :
    ∃ r s₁, executeStage l s = .done (r, s₁) ∧ ∀ k a, s₁.memAdmit k a = s.memAdmit k a := by
  obtain ⟨⟨hk, hc | hc | hc⟩ | ⟨hk, hc | hc⟩, -⟩ := hl <;> rw [executeStage, hk, hc] <;>
    exact ⟨_, _, rfl, fun _ _ => rfl⟩

/-- A memory stage whose request is accepted is done. -/
theorem memoryStageWith_of_admit (c : Collaborator) (dest : Loc) {ctl : MemControl} {k : RequestKind} {a : Word}
    {s : State} (hk : ctl.requestKind = some k) (h : s.memAdmit k a = true) :
    ∃ d t, memoryStageWith c ctl dest a s = .done (d, t) := by
  cases ctl with
  | none => cases hk
  | unsupported j => cases hk
  | read32 => cases hk; exact ⟨_, _, memoryStageWith_read32 c dest h⟩
  | read64 => cases hk; exact ⟨_, _, memoryStageWith_read64 c dest h⟩
  | write32 => cases hk; exact ⟨_, _, memoryStageWith_write32 c dest h⟩
  | write64 => cases hk; exact ⟨_, _, memoryStageWith_write64 c dest h⟩

/-- The memory stage of a supported code is done, or stuck on its request. -/
theorem memoryStage_of_supported {ctl : MemControl} (hctl : ∀ k, ctl ≠ .unsupported k) (dest : Loc) (a : Word)
    (s : State) :
    (∃ d t, memoryStage ctl dest a s = .done (d, t)) ∨
      ∃ k, ctl.requestKind = some k ∧ s.memAdmit k a = false ∧
        memoryStage ctl dest a s = .stuck (.memoryRequestNotAdmitted k a) := by
  cases hk : ctl.requestKind with
  | none =>
    cases ctl with
    | none => exact .inl ⟨_, _, rfl⟩
    | unsupported k => exact absurd rfl (hctl k)
    | _ => cases hk
  | some k =>
    cases h : s.memAdmit k a with
    | true => exact .inl (memoryStageWith_of_admit _ dest hk h)
    | false => exact .inr ⟨k, rfl, h, memoryStageWith_of_not_admit _ dest hk h⟩

theorem writeBackStage_of_supported {ctl : WbControl} (hctl : ∀ k, ctl ≠ .unsupported k) (dest : Loc) (w : Word)
    (s : State) : ∃ t, writeBackStage ctl dest w s = .done t := by
  cases ctl with
  | unsupported k => exact absurd rfl (hctl k)
  | _ => exact ⟨_, rfl⟩

/-- A tick on supported latches answers a next state, or the memory refuses the one request it makes (R92). -/
theorem finishTick_of_supported {l : Latches} (hl : l.supported) (s : State) :
    (∃ t, finishTick l s = .next t) ∨
      ∃ k a, l.memControl.requestKind = some k ∧ s.memAdmit k a = false ∧
        finishTick l s = .fault (.memoryRequestNotAdmitted k a) := by
  obtain ⟨r, s₁, he, hadm⟩ := executeStage_of_supported hl s
  obtain ⟨-, hmem, hwb⟩ := hl
  rcases memoryStage_of_supported hmem l.destination r s₁ with ⟨d, s₂, hm⟩ | ⟨k, hk, href, hm⟩ <;>
    rw [memoryStage] at hm
  · obtain ⟨t, hw⟩ := writeBackStage_of_supported hwb l.destination (committedValue l.memToReg r d) s₂
    left
    simp [finishTick, finishTickWith, he, hm, hw, StageResult.andThen, StageResult.outcome]
  · refine .inr ⟨k, r, hk, (hadm k r).symm.trans href, ?_⟩
    simp [finishTick, finishTickWith, he, hm, StageResult.andThen, StageResult.outcome]

/-- Settles O40: what decodes has supported latches, and only those of a load or a store make a request. -/
theorem decodedInstructionsNeverFail : Obligations.DecodedInstructionsNeverFail := by
  intro w i s hd
  obtain ⟨l, hl⟩ := Option.isSome_iff_exists.mp ((isSome_latchInstr i s).trans (decode_wellFormed hd))
  have hsup := supported_of_latchInstr hl
  rw [exec_eq_finishDecoded, hl, finishDecoded]
  rcases finishTick_of_supported hsup s with ⟨t, ht⟩ | ⟨k, a, hk, hadm, hf⟩
  · exact .inl ⟨t, ht, finishTick_errorState hsup ht⟩
  · exact .inr ⟨k, a, hf, hadm, loadStore_of_requestKind hl hk⟩

/-! ## The invariant (R27, R28, R45) -/

/-- Settles O50: no error, RUNNING, and the listing given. -/
theorem resetSatisfiesInv : Obligations.ResetSatisfiesInv := by
  have resetWith_inv : ∀ p : ResetParams, p.mem.wf = true → (State.resetWith p).Inv := fun _ hmem =>
    ⟨iff_of_true rfl rfl, iff_of_false nofun nofun, hmem⟩
  exact ⟨resetWith_inv .chosen rfl, resetWith_inv⟩

/-- A recorded failure is UNIMPLEMENTED with a cause, and halts (R171). -/
theorem State.Inv.raise {s : State} (h : s.Inv) (c : Cause) : (s.raise c).Inv :=
  ⟨iff_of_false nofun (by cases c <;> exact nofun), iff_of_true rfl rfl, h.memory⟩

/-- The invariant is about the error state and memory alone. -/
theorem State.Inv.congr {s t : State} (h : s.Inv) (hcpu : t.cpuError = s.cpuError)
    (hcause : t.errorCause = s.errorCause) (hrun : t.runState = s.runState) (hmem : t.mem.wf = true) : t.Inv := by
  refine ⟨?_, ?_, hmem⟩
  · rw [State.errorStateConsistent, hcpu, hcause]
    exact h.error
  · rw [State.runStateConsistent, hcpu, hrun]
    exact h.run

/-- An instruction keeps the canonical form of the memory listing. -/
theorem exec_memoryCanonical {i : Instr} {s t : State} (hm : s.memoryCanonical) (h : exec i s = .next t) :
    t.memoryCanonical := by
  unfold State.memoryCanonical at hm ⊢
  rcases exec_next h with ⟨-, rfl⟩ | ⟨l, hl, ht⟩
  · exact hm
  · rcases finishTick_mem (supported_of_latchInstr hl) ht with hmem | ⟨-, a, v, hmem⟩ | ⟨-, a, v, hmem⟩ <;>
      rw [hmem]
    · exact hm
    · exact Memory.wf_write32 hm a v
    · exact Memory.wf_write64 hm a v

theorem exec_inv {i : Instr} {s t : State} (hs : s.Inv) (h : exec i s = .next t) : t.Inv := by
  rcases exec_errorState h with rfl | ⟨hcpu, hcause, hrun⟩
  · exact hs.raise _
  · exact hs.congr hcpu hcause hrun (exec_memoryCanonical hs.memory h)

theorem tick_inv {s t : State} (hs : s.Inv) (h : tick s = .next t) : t.Inv := by
  obtain ⟨w, -, ⟨i, -, hi⟩ | ⟨e, -, rfl⟩⟩ := tick_next h
  · exact exec_inv hs hi
  · exact hs.raise _

/-- A turn of the driver keeps the invariant: it halts on a recorded error, halts without one, or ticks. -/
theorem driverTurn_inv {b : Bool} {s t : State} (hs : s.Inv) (h : driverTurn b s = .next t) : t.Inv := by
  obtain ⟨-, ⟨hcpu, rfl⟩ | ⟨hcpu, -, rfl⟩ | ⟨-, -, htick⟩⟩ := driverTurn_next h
  · exact ⟨hs.error, iff_of_true rfl hcpu, hs.memory⟩
  · refine ⟨hs.error, iff_of_false nofun fun herr => ?_, hs.memory⟩
    cases hcpu.symm.trans herr
  · exact tick_inv hs htick

/-- Settles O51: a step is a turn of the driver on the state with one sample used, which the invariant does not
look at. -/
theorem stepKeepsInv : Obligations.StepKeepsInv := fun s _ hs h =>
  driverTurn_inv (s := s.dropFinishedSample) (hs.congr rfl rfl rfl hs.memory) h

/-! ## The word at the PC (R70, R111) -/

/-- Settles O42: the turn is a tick, whose fetched word no row accepts. -/
theorem unmatchedWordHalts : Obligations.UnmatchedWordHalts := by
  intro s w hr he hfetch hrow
  have hrow' : ∀ r ∈ opcodeRows, ¬ r.accepts w = true := fun r hmem => by simp [hrow r hmem]
  refine ⟨rfl, fun finished hf => ?_, fun hf => ?_⟩
  · rw [driverStepUnder, hf, driverTurn_tick hr he, tick_of_fetch hfetch]
    exact tickOnWord_of_not_accepts hrow' s
  · rw [step_eq_tick hr he hf, tick_of_fetch (s.dropFinishedSample_fetch.trans hfetch)]
    exact tickOnWord_of_not_accepts hrow' _

theorem tickOnWord_of_decode_ok {w : Word32} {i : Instr} (h : decode w = .ok i) (s : State) :
    tickOnWord w s = exec i s := by
  simp [tickOnWord, tickOnWordBy, h]

/-- Settles O43: the step is a tick, and the fetched word is the four bytes. -/
theorem stepRunsDecodedInstruction : Obligations.StepRunsDecodedInstruction := by
  intro s i hr he hf hadm hd
  have hfirst : s.mem.byteAt s.pc 0 = s.byte s.pc := by rw [Memory.byteAt, BitVec.add_zero]; rfl
  have hword : decode (s.mem.read32 s.pc) = .ok i := by rw [Memory.read32, hfirst]; exact hd
  rw [step_eq_tick hr he hf, tick_of_fetch (s.dropFinishedSample_fetch.trans (State.fetch_of_admit hadm)),
    tickOnWord_of_decode_ok hword]
  rfl

/-! ## The host's accessors (R30) -/

section HostAccess

variable (s : State) (i : Fin 31) (j : Fin 32) (v : Word)

@[simp] theorem State.getX_setX_self : (s.setX i v).getX i = v := Vector.getElem_set_self ..

@[simp] theorem State.getD_setV_self : (s.setV j v).getD j = v := Vector.getElem_set_self ..

variable {i j}

theorem State.getX_setX_of_ne {k : Fin 31} (h : k ≠ i) : (s.setX i v).getX k = s.getX k :=
  Vector.getElem_set_ne (Fin.is_lt _) (Fin.is_lt _) fun he => h (Fin.ext he.symm)

theorem State.getD_setV_of_ne {k : Fin 32} (h : k ≠ j) : (s.setV j v).getD k = s.getD k :=
  Vector.getElem_set_ne (Fin.is_lt _) (Fin.is_lt _) fun he => h (Fin.ext he.symm)

end HostAccess

/-- The W view of a register is the low half of it, and the S view the low half of the D view (R17, R18). -/
theorem State.getW_eq (s : State) (i : Fin 31) : s.getW i = (s.getX i).extractLsb' 0 32 := rfl

theorem State.getS_eq (s : State) (j : Fin 32) : s.getS j = (s.getD j).extractLsb' 0 32 := rfl

/-- Settles O52: a setter is a write of one element of one register file or of SP, a getter a read of one, and the
32-bit views are the low halves. -/
theorem hostAccessors : Obligations.HostAccessors := by
  intro s i j v w
  refine ⟨rfl, rfl, rfl, rfl, rfl, rfl, rfl, rfl, rfl, rfl, rfl, rfl, s.getX_setX_self i v, ?_, ?_,
    s.getX_setX_self i _, fun k hk => ⟨s.getX_setX_of_ne v hk, s.getX_setX_of_ne _ hk⟩, rfl,
    s.getD_setV_self j v, ?_, ?_, s.getD_setV_self j _,
    fun k hk => ⟨s.getD_setV_of_ne v hk, s.getD_setV_of_ne _ hk⟩⟩
  · rw [State.getW_eq, State.hostSetX, State.getX_setX_self]
  · rw [State.getW_eq, State.hostSetW, State.getX_setX_self]
    exact extractLsb'_setWidth_word32 w
  · rw [State.getS_eq, State.hostSetD, State.getD_setV_self]
  · rw [State.getS_eq, State.hostSetS, State.getD_setV_self]
    exact extractLsb'_setWidth_word32 w

end Sys2Proof.Machine

/-! # Proofs about the samples of `finished` (spec/40_pipeline_stages.md R112, log 7) -/

namespace Sys2Proof.Machine

/-! ## The samples through a turn: carried along, never read by a stage -/

section Samples

variable (samples : List Bool) (s : State)

/-- The execute stage carries the samples along. -/
theorem executeStage_setFinishedInput (l : Latches) :
    executeStage l (s.setFinishedInput samples) =
      (executeStage l s).map (Prod.map id (·.setFinishedInput samples)) (·.setFinishedInput samples) := by
  unfold executeStage
  cases l.floatOpKind with
  | float32 => cases l.aluControl <;> rfl
  | undefined => cases l.aluControl <;> rfl

@[simp] theorem State.memAdmit_setFinishedInput (k : RequestKind) (a : Word) :
    (s.setFinishedInput samples).memAdmit k a = s.memAdmit k a := rfl

@[simp] theorem State.readLoc_setFinishedInput (l : Loc) :
    (s.setFinishedInput samples).readLoc l = s.readLoc l := by
  cases l <;> rfl

/-- The memory stage carries the samples along, its request accepted or not. -/
theorem memoryStageWith_setFinishedInput (c : Collaborator) (ctl : MemControl) (dest : Loc) (a : Word) :
    memoryStageWith c ctl dest a (s.setFinishedInput samples) =
      (memoryStageWith c ctl dest a s).map (Prod.map id (·.setFinishedInput samples))
        (·.setFinishedInput samples) := by
  cases ctl with
  | none => rfl
  | unsupported k => rfl
  | read32 =>
    rw [memoryStageWith_read32_eq, memoryStageWith_read32_eq, State.memAdmit_setFinishedInput]
    split <;> rfl
  | read64 =>
    rw [memoryStageWith_read64_eq, memoryStageWith_read64_eq, State.memAdmit_setFinishedInput]
    split <;> rfl
  | write32 =>
    rw [memoryStageWith_write32_eq, memoryStageWith_write32_eq, State.memAdmit_setFinishedInput,
      State.readLoc_setFinishedInput]
    split <;> rfl
  | write64 =>
    rw [memoryStageWith_write64_eq, memoryStageWith_write64_eq, State.memAdmit_setFinishedInput,
      State.readLoc_setFinishedInput]
    split <;> rfl

/-- The write-back stage carries the samples along. -/
theorem writeBackStage_setFinishedInput (ctl : WbControl) (dest : Loc) (w : Word) :
    writeBackStage ctl dest w (s.setFinishedInput samples) =
      (writeBackStage ctl dest w s).map (·.setFinishedInput samples) (·.setFinishedInput samples) := by
  cases ctl with
  | none => rfl
  | unsupported k => rfl
  | regWrite => cases dest <;> rfl

/-- The PC update carries the samples along. -/
theorem advancePc_setFinishedInput (ctl : WbControl) (dest : Loc) :
    advancePc ctl dest (s.setFinishedInput samples) = (advancePc ctl dest s).setFinishedInput samples := by
  unfold advancePc
  split <;> rfl

theorem StageResult.outcome_map_setFinishedInput (r : StageResult State) :
    (r.map (·.setFinishedInput samples) (·.setFinishedInput samples)).outcome =
      mapNext (·.setFinishedInput samples) r.outcome := by
  cases r <;> rfl

/-- The rest of a tick carries the samples along. -/
theorem finishTick_setFinishedInput (l : Latches) :
    finishTick l (s.setFinishedInput samples) = mapNext (·.setFinishedInput samples) (finishTick l s) := by
  unfold finishTick finishTickWith
  rw [executeStage_setFinishedInput, ← StageResult.outcome_map_setFinishedInput]
  refine congrArg StageResult.outcome (StageResult.andThen_map (fun e => ?_) _)
  refine (congrArg (StageResult.andThen · _) (memoryStageWith_setFinishedInput ..)).trans
    (StageResult.andThen_map (fun m => ?_) _)
  refine (congrArg (StageResult.andThen · _) (writeBackStage_setFinishedInput ..)).trans
    (StageResult.andThen_map (fun t => ?_) _)
  exact congrArg StageResult.done (advancePc_setFinishedInput ..)

/-- Decode reads no sample. -/
theorem latchInstr_setFinishedInput (i : Instr) : latchInstr i (s.setFinishedInput samples) = latchInstr i s := by
  cases i with
  | bCond c imm19 => cases c <;> rfl
  | _ => rfl

theorem exec_setFinishedInput (i : Instr) :
    exec i (s.setFinishedInput samples) = mapNext (·.setFinishedInput samples) (exec i s) := by
  rw [exec_eq_finishDecoded, exec_eq_finishDecoded, latchInstr_setFinishedInput]
  cases latchInstr i s with
  | none => rfl
  | some l => exact finishTick_setFinishedInput samples s l

theorem tickOnWord_setFinishedInput (w : Word32) :
    tickOnWord w (s.setFinishedInput samples) = mapNext (·.setFinishedInput samples) (tickOnWord w s) := by
  cases hd : decode w with
  | ok i => rw [tickOnWord_of_decode_ok hd, tickOnWord_of_decode_ok hd, exec_setFinishedInput]
  | error e =>
    rw [tickOnWord_of_decode_error hd, tickOnWord_of_decode_error hd]
    rfl

theorem State.fetch_setFinishedInput : (s.setFinishedInput samples).fetch = s.fetch := by
  rw [State.fetch, State.fetch, State.readInstruction32_eq, State.readInstruction32_eq]
  rfl

theorem tick_setFinishedInput :
    tick (s.setFinishedInput samples) = mapNext (·.setFinishedInput samples) (tick s) := by
  have hfetch := s.fetch_setFinishedInput samples
  cases h : s.fetch with
  | ok w => rw [tick_of_fetch (hfetch.trans h), tick_of_fetch h, tickOnWord_setFinishedInput]
  | error f =>
    rw [tick_of_fetch_error (hfetch.trans h), tick_of_fetch_error h]
    rfl

/-- A turn of the driver carries along the samples that are left when it begins. -/
theorem driverTurn_setFinishedInput (b : Bool) :
    driverTurn b (s.setFinishedInput samples) = mapNext (·.setFinishedInput samples) (driverTurn b s) := by
  unfold driverTurn driverTurnBy
  rw [tick_setFinishedInput, State.setFinishedInput_runState, State.setFinishedInput_cpuError]
  cases s.runState with
  | haltedOk => rfl
  | haltedError => rfl
  | running =>
    cases s.cpuError with
    | unimplemented => rfl
    | none => cases b <;> rfl

/-- A step that reads the value of the predicate as its sample is the turn under the predicate. -/
theorem step_setFinishedInput_cons (finished : State → Bool) :
    step (s.setFinishedInput (finished s :: samples)) =
      mapNext (·.setFinishedInput samples) (driverStepUnder finished s) :=
  driverTurn_setFinishedInput samples s (finished s)

end Samples

/-! ## A run on samples and a run under a predicate (R112) -/

section Run

variable {M : Host.Core} {s : M.State}

theorem coreRun_succ_of_next {t : M.State} (h : M.step s = .next t) (k : Nat) : M.run (k + 1) s = M.run k t := by
  simp [Host.Core.run, h]

theorem coreRun_succ_of_fault {f : M.Fault} (h : M.step s = .fault f) (k : Nat) : M.run (k + 1) s = .fault f := by
  simp [Host.Core.run, h]

theorem coreRun_succ_of_refused {r : M.Refusal} (h : M.step s = .refused r) (k : Nat) :
    M.run (k + 1) s = .refused r := by
  simp [Host.Core.run, h]

end Run

/-- Some samples make the machine run as it does under the predicate: its values in the states the run passes. -/
theorem exists_samples_of_predicate (finished : State → Bool) (turns : Nat) (s : State) :
    ∃ samples : List Bool,
      withoutSamples (core.run turns (s.setFinishedInput samples)) =
        withoutSamples ((coreUnder finished).run turns s) := by
  induction turns generalizing s with
  | zero => exact ⟨[], rfl⟩
  | succ turns ih =>
    have hstep : ∀ samples, core.step (s.setFinishedInput (finished s :: samples)) =
        mapNext (·.setFinishedInput samples) (driverStepUnder finished s) :=
      fun samples => step_setFinishedInput_cons samples s finished
    cases h : driverStepUnder finished s with
    | next t =>
      obtain ⟨samples, ht⟩ := ih t
      have hrun := coreRun_succ_of_next ((hstep samples).trans (congrArg (mapNext _) h)) turns
      have hunder := coreRun_succ_of_next (M := coreUnder finished) h turns
      exact ⟨finished s :: samples,
        (congrArg withoutSamples hrun).trans (ht.trans (congrArg withoutSamples hunder).symm)⟩
    | fault f =>
      have hrun := coreRun_succ_of_fault ((hstep []).trans (congrArg (mapNext _) h)) turns
      have hunder := coreRun_succ_of_fault (M := coreUnder finished) h turns
      exact ⟨[finished s], congrArg withoutSamples (hrun.trans hunder.symm)⟩
    | refused r =>
      have hrun := coreRun_succ_of_refused ((hstep []).trans (congrArg (mapNext _) h)) turns
      have hunder := coreRun_succ_of_refused (M := coreUnder finished) h turns
      exact ⟨[finished s], congrArg withoutSamples (hrun.trans hunder.symm)⟩

/-- Settles O48: the samples are the predicate's values in the states of the run under it, so that the predicate's
independence of the samples is not needed. -/
theorem samplesRealiseEveryPredicate : Obligations.SamplesRealiseEveryPredicate :=
  fun finished _ turns s => exists_samples_of_predicate finished turns s

end Sys2Proof.Machine

/-! # Proofs about the rounded sum of two binary32 values (spec/43_fp_scalar.md R142) -/

namespace Sys2Proof.Machine

/-! ## Special sums (steps 1 and 3 to 5 of R142) -/

theorem fp32Add_of_some {a b r : Word32} (h : addNoNan a b = some r) : fp32Add a b = r := by
  rw [fp32Add, h]

/-- Without a NaN in the result, the difference is the sum with the inverted sign (step 1). -/
theorem fp32Sub_eq_fp32Add_flipSign {a b : Word32} (h : isFp32Nan (fp32Add a (b ^^^ 0x80000000#32)) = false) :
    fp32Sub a b = fp32Add a (b ^^^ 0x80000000#32) := by
  cases hr : addNoNan a (b ^^^ 0x80000000#32) with
  | some r => rw [fp32Sub_of_some hr, fp32Add_of_some hr]
  | none => simp [isFp32Nan_fp32Add_of_none hr] at h

/-- An infinity absorbs a finite value and an equal infinity (steps 3 and 4). -/
theorem addNoNan_of_infinity {a b : Word32} {n : Bool} (ha : fp32Value a = .infinity n)
    (hb : fp32Value b = .infinity n ∨ ∃ nb ub, fp32Value b = .finite nb ub) : addNoNan a b = some a := by
  rcases hb with hb | ⟨nb, ub, hb⟩ <;> simp [addNoNan, ha, hb]

theorem addNoNan_of_finite_infinity {a b : Word32} {na nb : Bool} {ua : Nat} (ha : fp32Value a = .finite na ua)
    (hb : fp32Value b = .infinity nb) : addNoNan a b = some b := by
  simp [addNoNan, ha, hb]

/-- The sum of two finite values is rounded from the exact one. -/
theorem fp32Add_of_finite {a b : Word32} {na nb : Bool} {ua ub : Nat} (ha : fp32Value a = .finite na ua)
    (hb : fp32Value b = .finite nb ub) : fp32Add a b = addFinite na ua nb ub :=
  fp32Add_of_some (addNoNan_of_finite ha hb)

/-- Only -0 has the sign set and the magnitude 0. -/
theorem fp32Value_eq_negZero_iff {p : Word32} : fp32Value p = .finite true 0 ↔ p = 0x80000000#32 := by
  refine ⟨fun h => ?_, fun h => by rw [h]; decide⟩
  rw [← fp32Pattern_fields p]
  unfold fp32Value at h
  split_ifs at h with he hf h0
  · obtain ⟨hn, hf⟩ := Fp32Value.finite.inj h
    rw [hn, h0, hf]
    rfl
  · obtain ⟨-, hu⟩ := Fp32Value.finite.inj h
    simp at hu

/-- An exact zero sum is -0 only for two -0 (step 5). -/
theorem addFinite_of_sum_zero {na nb : Bool} {ua ub : Nat} (h : signedUnits na ua + signedUnits nb ub = 0) :
    addFinite na ua nb ub = if na && nb then 0x80000000#32 else 0x00000000#32 := if_pos h

theorem units_eq_zero_of_negative_sum {ua ub : Nat} (h : signedUnits true ua + signedUnits true ub = 0) :
    ua = 0 ∧ ub = 0 := by
  simp only [signedUnits, if_true] at h
  omega

/-- Settles O17: each step by the branch of the addition it is; two negative values sum to zero only as -0 and -0. -/
theorem fp32SpecialSums : Obligations.Fp32SpecialSums := by
  refine ⟨fun a b _ _ h => fp32Sub_eq_fp32Add_flipSign h, fun a b na ha => ⟨fun hb => ?_, fun hb => ?_,
    fun nb ub hb => ⟨?_, ?_⟩⟩, fun a b na nb ua ub ha hb hsum => ?_⟩
  · exact fp32Add_of_some (addNoNan_of_infinity ha (.inl hb))
  · exact isFp32Nan_fp32Add_of_none (addNoNan_eq_none_iff.mpr (.inr (.inr ⟨na, ha, hb⟩)))
  · exact fp32Add_of_some (addNoNan_of_infinity ha (.inr ⟨nb, ub, hb⟩))
  · exact fp32Add_of_some (addNoNan_of_finite_infinity hb ha)
  · rw [fp32Add_of_finite ha hb, addFinite_of_sum_zero hsum]
    refine if_congr ?_ rfl rfl
    rw [← fp32Value_eq_negZero_iff, ← fp32Value_eq_negZero_iff, ha, hb, Bool.and_eq_true]
    constructor
    · rintro ⟨rfl, rfl⟩
      obtain ⟨rfl, rfl⟩ := units_eq_zero_of_negative_sum hsum
      exact ⟨rfl, rfl⟩
    · rintro ⟨⟨⟩, ⟨⟩⟩
      exact ⟨rfl, rfl⟩

/-! ## The magnitude a pattern of 31 bits denotes (R141) -/

/-- The units of 2^-149 that the 31 bits below the sign denote, were every exponent finite: the bits themselves below
2^24, and above that the significand scaled by the exponent. -/
def fp32Units (m : Nat) : Nat := if m < 2 ^ 23 then m else (2 ^ 23 + m % 2 ^ 23) * 2 ^ (m / 2 ^ 23 - 1)

/-- A binade from its significand, the end of the binade included: the carry into the exponent is right. -/
theorem fp32Units_binade (k : Nat) {r : Nat} (hlo : 2 ^ 23 ≤ r) (hhi : r ≤ 2 ^ 24) :
    fp32Units (k * 2 ^ 23 + r) = r * 2 ^ k := by
  rw [fp32Units, if_neg (by omega)]
  rcases Nat.lt_or_eq_of_le hhi with hlt | rfl
  · rw [show (k * 2 ^ 23 + r) % 2 ^ 23 = r - 2 ^ 23 by omega, show (k * 2 ^ 23 + r) / 2 ^ 23 - 1 = k by omega,
      Nat.add_sub_cancel' hlo]
  · rw [show (k * 2 ^ 23 + 2 ^ 24) % 2 ^ 23 = 0 by omega, show (k * 2 ^ 23 + 2 ^ 24) / 2 ^ 23 - 1 = k + 1 by omega,
      Nat.pow_succ]
    omega

/-- Below 2^24 a pattern is its number of units. -/
theorem fp32Units_of_lt {m : Nat} (h : m < 2 ^ 24) : fp32Units m = m := by
  by_cases hm : m < 2 ^ 23
  · exact if_pos hm
  · simpa using fp32Units_binade 0 (Nat.le_of_not_lt hm) (Nat.le_of_lt h)

/-- Every magnitude from 2^23 on lies in a binade. -/
theorem exists_binade {m : Nat} (h : 2 ^ 23 ≤ m) : ∃ k r, m = k * 2 ^ 23 + r ∧ 2 ^ 23 ≤ r ∧ r < 2 ^ 24 :=
  ⟨m / 2 ^ 23 - 1, m % 2 ^ 23 + 2 ^ 23, by omega, by omega, by omega⟩

/-- A larger pattern denotes a larger magnitude. -/
theorem fp32Units_strictMono : StrictMono fp32Units := by
  refine strictMono_nat_of_lt_succ fun m => ?_
  by_cases hm : m < 2 ^ 23
  · rw [fp32Units_of_lt (by omega), fp32Units_of_lt (by omega)]
    exact Nat.lt_succ_self m
  · obtain ⟨k, r, rfl, hlo, hhi⟩ := exists_binade (Nat.le_of_not_lt hm)
    rw [Nat.add_assoc, fp32Units_binade k hlo (by omega), fp32Units_binade k (by omega) (by omega)]
    exact Nat.mul_lt_mul_of_pos_right (Nat.lt_succ_self r) (Nat.two_pow_pos k)

theorem fp32Negative_fp32Pattern (n : Bool) (m : Nat) : fp32Negative (fp32Pattern n m) = n := by
  rw [fp32Negative, fp32Pattern, BitVec.msb_append]
  simp

/-- The finite patterns are those below the pattern of the infinities. -/
theorem fp32Value_fp32Pattern (n : Bool) {m : Nat} (hm : m < fp32InfinityBits) :
    fp32Value (fp32Pattern n m) = .finite n (fp32Units m) := by
  unfold fp32InfinityBits at hm
  have he := fp32Exponent_fp32Pattern n m
  have hf := fp32Fraction_fp32Pattern n m
  by_cases h : m < 2 ^ 23
  · rw [fp32Value_of_exponent_zero (by omega), fp32Negative_fp32Pattern, hf, fp32Units, if_pos h,
      Nat.mod_eq_of_lt h]
  · have hexp : m / 2 ^ 23 % 2 ^ 8 = m / 2 ^ 23 := by omega
    rw [fp32Value_of_exponent_normal (by omega) (by omega), fp32Negative_fp32Pattern, he, hf, hexp, fp32Units, if_neg h]

theorem fp32Value_fp32Pattern_infinity (n : Bool) : fp32Value (fp32Pattern n fp32InfinityBits) = .infinity n := by
  cases n <;> decide

/-- Every finite pattern denotes the magnitude of some 31 bits below the infinities. -/
theorem exists_fp32Units_of_finite {p : Word32} {n : Bool} {u : Nat} (h : fp32Value p = .finite n u) :
    ∃ m < fp32InfinityBits, fp32Units m = u := by
  have hf : fp32Fraction p < 2 ^ 23 := (p.extractLsb' 0 23).isLt
  have he : fp32Exponent p < 2 ^ 8 := (p.extractLsb' 23 8).isLt
  have hfin : fp32Exponent p ≠ 255 := by
    intro h255
    by_cases h0 : fp32Fraction p = 0
    · cases h.symm.trans (fp32Value_of_infinity h255 h0)
    · cases h.symm.trans (fp32Value_of_nan h255 h0)
  have hm : fp32Exponent p * 2 ^ 23 + fp32Fraction p < fp32InfinityBits := by
    unfold fp32InfinityBits
    omega
  have hval := fp32Value_fp32Pattern (fp32Negative p) hm
  rw [fp32Pattern_fields, h] at hval
  exact ⟨_, hm, (Fp32Value.finite.inj hval).2.symm⟩

/-! ## Rounding a magnitude (step 6 of R142) -/

/-- The distance of two magnitudes. -/
def unitsDist (n u : Nat) : Nat := ((n : Int) - u).natAbs

/-- The pattern `m` denotes a magnitude as near to `n` as any, and is even where another one is as near. -/
def IsNearestEven (n m : Nat) : Prop :=
  ∀ j, unitsDist n (fp32Units m) ≤ unitsDist n (fp32Units j) ∧
    (unitsDist n (fp32Units m) = unitsDist n (fp32Units j) → fp32Units j ≠ fp32Units m → m % 2 = 0)

theorem isNearestEven_of_exact {n m : Nat} (h : fp32Units m = n) : IsNearestEven n m := by
  intro j
  unfold unitsDist
  omega

theorem roundedShift_eq (n k : Nat) :
    roundedShift n k =
      if 2 * (n % 2 ^ k) > 2 ^ k ∨ (2 * (n % 2 ^ k) = 2 ^ k ∧ n / 2 ^ k % 2 = 1) then n / 2 ^ k + 1
      else n / 2 ^ k := rfl

theorem roundedShift_bounds (n k : Nat) : n / 2 ^ k ≤ roundedShift n k ∧ roundedShift n k ≤ n / 2 ^ k + 1 := by
  rw [roundedShift_eq]
  split <;> omega

/-- In a binade, the magnitude lies between two neighbouring patterns, and the rounded quotient is the nearer one. -/
theorem isNearestEven_roundedShift {n k : Nat} (hlo : 2 ^ 23 ≤ n / 2 ^ k) (hhi : n / 2 ^ k < 2 ^ 24) :
    IsNearestEven n (k * 2 ^ 23 + roundedShift n k) := by
  intro j
  have hbelow : fp32Units (k * 2 ^ 23 + n / 2 ^ k) = n / 2 ^ k * 2 ^ k := fp32Units_binade k hlo (by omega)
  have habove : fp32Units (k * 2 ^ 23 + (n / 2 ^ k + 1)) = n / 2 ^ k * 2 ^ k + 2 ^ k := by
    rw [fp32Units_binade k (by omega) (by omega), Nat.succ_mul]
  have hj : fp32Units j ≤ fp32Units (k * 2 ^ 23 + n / 2 ^ k) ∨
      fp32Units (k * 2 ^ 23 + (n / 2 ^ k + 1)) ≤ fp32Units j :=
    (Nat.lt_or_ge (k * 2 ^ 23 + n / 2 ^ k) j).symm.imp (fp32Units_strictMono.monotone ·)
      (fp32Units_strictMono.monotone ·)
  have hn : n / 2 ^ k * 2 ^ k + n % 2 ^ k = n := Nat.div_add_mod' n (2 ^ k)
  have hmod : n % 2 ^ k < 2 ^ k := Nat.mod_lt n (Nat.two_pow_pos k)
  rw [roundedShift_eq]
  unfold unitsDist
  split
  · rw [habove]
    omega
  · rw [hbelow]
    omega

/-- The bits rounded away leave a quotient of 24 bits. -/
theorem div_two_pow_log2 {n : Nat} (h : 2 ^ 24 ≤ n) :
    2 ^ 23 ≤ n / 2 ^ (n.log2 - 23) ∧ n / 2 ^ (n.log2 - 23) < 2 ^ 24 := by
  have hne : n ≠ 0 := by omega
  have hlog : 24 ≤ n.log2 := (Nat.le_log2 hne).mpr h
  have hlo : 2 ^ 23 * 2 ^ (n.log2 - 23) ≤ n := by
    rw [← Nat.pow_add, Nat.add_sub_cancel' (by omega)]
    exact Nat.log2_self_le hne
  have hhi : n < 2 ^ 24 * 2 ^ (n.log2 - 23) := by
    rw [← Nat.pow_add, show 24 + (n.log2 - 23) = n.log2 + 1 by omega]
    exact Nat.lt_log2_self
  exact ⟨(Nat.le_div_iff_mul_le (Nat.two_pow_pos _)).mpr hlo, (Nat.div_lt_iff_lt_mul (Nat.two_pow_pos _)).mpr hhi⟩

/-- The rounded bits reach the infinities exactly from 2^128 - 2^103 on. -/
theorem roundedBits_lt_iff {n k : Nat} (hlo : 2 ^ 23 ≤ n / 2 ^ k) (hhi : n / 2 ^ k < 2 ^ 24) :
    k * 2 ^ 23 + roundedShift n k < fp32InfinityBits ↔ n < (2 ^ 25 - 1) * 2 ^ 252 := by
  obtain ⟨hge, hle⟩ := roundedShift_bounds n k
  unfold fp32InfinityBits
  rcases Nat.lt_trichotomy k 253 with hk | rfl | hk
  · have hpow : 2 ^ k ≤ 2 ^ 252 := Nat.pow_le_pow_right (by decide) (by omega)
    have hn : n < 2 ^ 24 * 2 ^ k := (Nat.div_lt_iff_lt_mul (Nat.two_pow_pos k)).mp hhi
    omega
  · rw [roundedShift_eq]
    split <;> omega
  · have hpow : 2 ^ 254 ≤ 2 ^ k := Nat.pow_le_pow_right (by decide) hk
    have hn : 2 ^ 23 * 2 ^ k ≤ n := (Nat.le_div_iff_mul_le (Nat.two_pow_pos k)).mp hlo
    omega

theorem roundMagnitude_of_lt {n : Nat} (h : n < 2 ^ 24) : roundMagnitude n = n := if_pos h

theorem roundMagnitude_of_ge {n : Nat} (h : 2 ^ 24 ≤ n) :
    roundMagnitude n =
      if (n.log2 - 23) * 2 ^ 23 + roundedShift n (n.log2 - 23) < fp32InfinityBits then
        (n.log2 - 23) * 2 ^ 23 + roundedShift n (n.log2 - 23)
      else fp32InfinityBits := if_neg (Nat.not_lt.mpr h)

/-- From 2^128 - 2^103 on a magnitude rounds to the infinity. -/
theorem roundMagnitude_of_overflow {n : Nat} (h : (2 ^ 25 - 1) * 2 ^ 252 ≤ n) :
    roundMagnitude n = fp32InfinityBits := by
  have hbig : 2 ^ 24 ≤ n := by omega
  obtain ⟨hlo, hhi⟩ := div_two_pow_log2 hbig
  rw [roundMagnitude_of_ge hbig, if_neg]
  rw [roundedBits_lt_iff hlo hhi]
  exact Nat.not_lt.mpr h

/-- Below 2^128 - 2^103 a magnitude rounds to the nearest finite one, ties to even. -/
theorem roundMagnitude_of_not_overflow {n : Nat} (h : n < (2 ^ 25 - 1) * 2 ^ 252) :
    roundMagnitude n < fp32InfinityBits ∧ IsNearestEven n (roundMagnitude n) := by
  by_cases hsmall : n < 2 ^ 24
  · rw [roundMagnitude_of_lt hsmall]
    exact ⟨hsmall.trans (by decide), isNearestEven_of_exact (fp32Units_of_lt hsmall)⟩
  · obtain ⟨hlo, hhi⟩ := div_two_pow_log2 (Nat.le_of_not_lt hsmall)
    have hfin := (roundedBits_lt_iff hlo hhi).mpr h
    rw [roundMagnitude_of_ge (Nat.le_of_not_lt hsmall), if_pos hfin]
    exact ⟨hfin, isNearestEven_roundedShift hlo hhi⟩

/-! ## The rounded sum with its sign -/

/-- The lowest bit of a pattern is the parity of its magnitude bits. -/
theorem getLsbD_zero_fp32Pattern (n : Bool) {m : Nat} (h : m % 2 = 0) :
    (fp32Pattern n m).getLsbD 0 = false := by
  have hlow : (fp32Pattern n m).getLsbD 0 = (BitVec.ofNat 31 m).getLsbD 0 := BitVec.getLsbD_append
  rw [hlow, BitVec.getLsbD_ofNat, Nat.testBit_zero, h]
  rfl

/-- A sum that is not zero is rounded as a magnitude and keeps its sign. -/
theorem addFinite_of_sum_ne_zero {na nb : Bool} {ua ub : Nat} {x : Int}
    (hx : signedUnits na ua + signedUnits nb ub = x) (h : x ≠ 0) :
    addFinite na ua nb ub = fp32Pattern (decide (x < 0)) (roundMagnitude x.natAbs) := by
  subst hx
  exact if_neg h

/-- Nearest among the magnitudes is nearest among the signed values: a value of the other sign is no nearer than 0. -/
theorem IsNearestEven.signed {x : Int} {m : Nat} (h : IsNearestEven x.natAbs m) (n : Bool) (j : Nat) :
    let r : Int := if x < 0 then -(fp32Units m : Int) else fp32Units m
    let q := signedUnits n (fp32Units j)
    (x - r).natAbs ≤ (x - q).natAbs ∧ ((x - r).natAbs = (x - q).natAbs → q ≠ r → m % 2 = 0) := by
  intro r q
  obtain ⟨hj, hjtie⟩ := h j
  obtain ⟨h0, h0tie⟩ := h 0
  have hzero : fp32Units 0 = 0 := rfl
  rw [hzero] at h0 h0tie
  unfold unitsDist at *
  have hq : q = fp32Units j ∨ q = -(fp32Units j : Int) := by
    cases n with
    | true => exact .inr rfl
    | false => exact .inl rfl
  by_cases hx : x < 0
  · have hr : r = -(fp32Units m : Int) := if_pos hx
    omega
  · have hr : r = (fp32Units m : Int) := if_neg hx
    omega

/-- Settles O18: the sum is the exact one's magnitude, rounded, with its sign; the rounded magnitude is the infinity's
or, among all finite ones, the nearest with ties to even. -/
theorem fp32SumRoundsToNearestEven : Obligations.Fp32SumRoundsToNearestEven := by
  intro a b na nb ua ub ha hb x hx
  have hsum : fp32Add a b = fp32Pattern (decide (x < 0)) (roundMagnitude x.natAbs) :=
    (fp32Add_of_finite ha hb).trans (addFinite_of_sum_ne_zero rfl hx)
  rw [hsum]
  split
  case isTrue hover => rw [roundMagnitude_of_overflow hover, fp32Value_fp32Pattern_infinity]
  case isFalse hover =>
    obtain ⟨hfin, hnear⟩ := roundMagnitude_of_not_overflow (Nat.lt_of_not_le hover)
    refine ⟨_, fp32Value_fp32Pattern _ hfin, fun hsmall => ?_, fun p np up hp => ?_⟩
    · rw [roundMagnitude_of_lt hsmall, fp32Units_of_lt hsmall]
    · obtain ⟨j, -, rfl⟩ := exists_fp32Units_of_finite hp
      obtain ⟨hle, htie⟩ := hnear.signed np j
      exact ⟨hle, fun heq hne => getLsbD_zero_fp32Pattern _ (htie heq hne)⟩

end Sys2Proof.Machine
